-- ==== Sys2Proof/Word.lean ====
section
/-! DEFINITION. Words and their plainest arithmetic, in the spec's own notation
(00_scope.md rules R10, R11): bit 0 is the least significant bit, a stored word is a bit vector of
stated width, and arithmetic is done on mathematical integers and narrowed explicitly. -/

namespace Sys2Proof

/-- `sval(v)`: the integer a two's-complement word stands for (R11). -/
abbrev sval {w : Nat} (v : BitVec w) : Int := v.toInt

/-- `uval(v)`: the integer an unsigned word stands for (R11). -/
abbrev uval {w : Nat} (v : BitVec w) : Nat := v.toNat

/-- `trunc_w(i)`: the low `w` bits of the integer `i` (R11). -/
abbrev trunc (w : Nat) (i : Int) : BitVec w := BitVec.ofInt w i

/-- `sext_n(v)`: `v` read as two's complement and extended to `n` bits (R11). -/
abbrev sext {w : Nat} (n : Nat) (v : BitVec w) : BitVec n := v.signExtend n

/-- `zext_n(v)`: `v` extended with zeros to `n` bits (R11). -/
abbrev zext {w : Nat} (n : Nat) (v : BitVec w) : BitVec n := v.setWidth n

/-- `clamp(i, lo, hi) = min(max(i, lo), hi)` (R11). -/
def clampInt (i lo hi : Int) : Int := min (max i lo) hi

end Sys2Proof
end

