-- ==== Sys2Proof/Config.lean ====
section
/-! DEFINITION. The configuration "fixed at construction" (00_scope.md rules R7, R8): the three
parameter records of the source, the spec's own parameters, the reference values, and the values
no source fixes, which are constants without a body. The derived quantities of R9 and the checks of
R362 are in `Sys2Proof.Machine.Params`. -/

namespace Sys2Proof

/-- `AcquisitionParams` (R7, R8). -/
structure AcquisitionParams where
  /-- channels of the ADC -/
  channels : Nat
  /-- parallel serial lines -/
  lanes : Nat
  /-- bits of one ADC sample -/
  width : Nat
  /-- conversion-strobe cycles `t_cnvh` -/
  tCnvh : Nat
  /-- conversion cycles `t_conv` -/
  tConv : Nat
  /-- round-trip absorption cycles `t_rtt` -/
  tRtt : Nat
deriving DecidableEq, Repr

/-- `FilterWidths` (R7, R8). -/
structure FilterWidths where
  /-- `S`, the state word width -/
  state : Nat
  /-- `K`, the coefficient half-word width -/
  coeff : Nat
  /-- `A`, the accumulator width -/
  accumulator : Nat
  /-- ADC sample width in the filter -/
  adc : Nat
  /-- `WD`, the ftw0/ftw1/pow field width -/
  word : Nat
  /-- amplitude field width -/
  asf : Nat
  /-- `SH`, the accumulator right shift -/
  shift : Nat
  /-- `C`, the channel index width -/
  channelLog2 : Nat
  /-- `P`, the profile index width -/
  profileLog2 : Nat
deriving DecidableEq, Repr

/-- `OutputParams` (R7, R8). -/
structure OutputParams where
  /-- `OW`, the serial frame bits -/
  width : Nat
  /-- channels of the output stage -/
  channels : Nat
  /-- serial clock divisor -/
  clkDivisor : Nat
deriving DecidableEq, Repr

/-- `MEM_INIT`: the power-up content of both memories (R8, R51, R402). -/
inductive MemInit where
  /-- nothing is defined; a read of a never-written word raises `F_UNINIT_READ` -/
  | unspecified
  /-- every word reads 0 until written -/
  | zero
deriving DecidableEq, Repr

/-- The eight coefficient fields of a (channel, profile) pair (30_encoding.md rule R111). -/
inductive CoeffField where
  | ftw1 | b1 | pow | cfg | offset | a1 | ftw0 | b0
deriving DecidableEq, Repr

/-- `COEFF_FIELD_INDEX`: the 3-bit index of each field (R8, 20_memory.md rule R82). -/
structure FieldIndex where
  ftw1 : BitVec 3
  b1 : BitVec 3
  pow : BitVec 3
  cfg : BitVec 3
  offset : BitVec 3
  a1 : BitVec 3
  ftw0 : BitVec 3
  b0 : BitVec 3
deriving DecidableEq, Repr

/-- The whole configuration: a model passes it as an argument and no tick changes it (R7, R32). -/
structure Config where
  acq : AcquisitionParams
  filt : FilterWidths
  out : OutputParams
  /-- `UPD_DELAY`, cycles from output done to the update strobe (42_output_assembler.md rule R267) -/
  updDelay : Nat
  /-- `CMD_BYTE`, the command byte of every frame (30_encoding.md rule R120) -/
  cmdByte : BitVec 8
  fieldIndex : FieldIndex
  /-- `X_ALIGN` (41_filter_engine.md rule R197) -/
  xAlign : Nat
  /-- `OFFSET_ALIGN` (41_filter_engine.md rule R208) -/
  offsetAlign : Nat
  memInit : MemInit
deriving DecidableEq, Repr

namespace Config

/-- `C`, the channel index width. -/
abbrev C (c : Config) : Nat := c.filt.channelLog2
/-- `P`, the profile index width. -/
abbrev P (c : Config) : Nat := c.filt.profileLog2
/-- `N_ch = 2^channel_log2` (R8). -/
abbrev nCh (c : Config) : Nat := 2 ^ c.C
/-- `S`, the state word width. -/
abbrev S (c : Config) : Nat := c.filt.state
/-- `K`, the coefficient half-word width. -/
abbrev K (c : Config) : Nat := c.filt.coeff
/-- `A`, the accumulator width. -/
abbrev A (c : Config) : Nat := c.filt.accumulator
/-- `SH`, the accumulator right shift. -/
abbrev SH (c : Config) : Nat := c.filt.shift
/-- `WD`, the width of an output word field. -/
abbrev WD (c : Config) : Nat := c.filt.word
/-- the amplitude field width -/
abbrev ASF (c : Config) : Nat := c.filt.asf
/-- `OW`, the frame width. -/
abbrev OW (c : Config) : Nat := c.out.width
/-- the ADC sample width `AcquisitionParams.width` -/
abbrev W (c : Config) : Nat := c.acq.width
/-- the width of a host selector, `3 + C + P + 3` (30_encoding.md rule R117) -/
abbrev selW (c : Config) : Nat := 3 + c.C + c.P + 3

/-- Default `COEFF_FIELD_INDEX` (30_encoding.md rule R112). PRESUMED by the spec itself (its G1). -/
def defaultFieldIndex : FieldIndex :=
  { ftw1 := 0, b1 := 1, pow := 2, cfg := 3, offset := 4, a1 := 5, ftw0 := 6, b0 := 7 }

/-- The command byte of the machine `State.reset` starts: OPEN in the spec (R8, its D20), so a
constant that nothing can evaluate (log entry 3). -/
opaque openCmdByte : BitVec 8

/-- The update-strobe delay of the machine `State.reset` starts: OPEN in the spec (R8, its D22), so
a constant that nothing can evaluate (log entry 3). -/
opaque openUpdDelay : Nat

/-- The environment's free draw of an ADC sample (40_acquisition.md rule R158: "a free draw, under
no law"): of width `w`, for the `n`-th acquisition completion and channel `ch` (log entry 11). -/
opaque freeSample : (w n ch : Nat) → BitVec w

/-- The reference configuration: the §8 widths of R8, the spec's example timing (its P11), the
default field order and alignments, `MEM_INIT = unspecified` (the default of R8), and the two OPEN
parameters uninterpreted (log entries 2, 3, 4). -/
def reference : Config :=
  { acq := { channels := 8, lanes := 4, width := 16, tCnvh := 4, tConv := 8, tRtt := 4 }
    filt := { state := 25, coeff := 18, accumulator := 48, adc := 16, word := 16, asf := 14,
              shift := 11, channelLog2 := 3, profileLog2 := 5 }
    out := { width := 72, channels := 8, clkDivisor := 1 }
    updDelay := openUpdDelay
    cmdByte := openCmdByte
    fieldIndex := defaultFieldIndex
    xAlign := 0
    offsetAlign := 0
    memInit := .unspecified }

/-- `COEFF_FIELD_INDEX(f)` (R8, 20_memory.md rule R82). -/
def idx (c : Config) : CoeffField → BitVec 3
  | .ftw1 => c.fieldIndex.ftw1
  | .b1 => c.fieldIndex.b1
  | .pow => c.fieldIndex.pow
  | .cfg => c.fieldIndex.cfg
  | .offset => c.fieldIndex.offset
  | .a1 => c.fieldIndex.a1
  | .ftw0 => c.fieldIndex.ftw0
  | .b0 => c.fieldIndex.b0

/-- The field whose index is `k`: `COEFF_FIELD_INDEX` read backwards; none only where the
assignment is no bijection (check CF9 refuses that). -/
def fieldAt (c : Config) (k : BitVec 3) : Option CoeffField :=
  [CoeffField.ftw1, .b1, .pow, .cfg, .offset, .a1, .ftw0, .b0].find? fun f => c.idx f == k

end Config
end Sys2Proof
end

