-- ==== Sys2Proof/Syntax.lean ====
section
/-! DEFINITION. The instructions: one constructor per row of spec/opcode_table.json (00_scope.md
rule R4: host operations and micro-operations), and the abstract host calls of
44_host_interface.md rule R321 that name them. -/

namespace Sys2Proof

/-- One constructor per row of the opcode table. A host operation carries its channel and profile
as plain numbers, so that an operand outside its range can be written and is refused by the machine
(60_exceptions.md rule R376), and its value as the integer `v` of 30_encoding.md rule R119. The
micro-operations carry nothing: what they act on is in the state. -/
inductive Instr where
  -- set_coefficient, one row per field (R322)
  | setCoeffFtw1 (ch prof : Nat) (v : Int)
  | setCoeffB1 (ch prof : Nat) (v : Int)
  | setCoeffPow (ch prof : Nat) (v : Int)
  | setCoeffCfg (ch prof : Nat) (v : Int)
  | setCoeffOffset (ch prof : Nat) (v : Int)
  | setCoeffA1 (ch prof : Nat) (v : Int)
  | setCoeffFtw0 (ch prof : Nat) (v : Int)
  | setCoeffB0 (ch prof : Nat) (v : Int)
  -- get_coefficient, one row per field (R323)
  | getCoeffFtw1 (ch prof : Nat)
  | getCoeffB1 (ch prof : Nat)
  | getCoeffPow (ch prof : Nat)
  | getCoeffCfg (ch prof : Nat)
  | getCoeffOffset (ch prof : Nat)
  | getCoeffA1 (ch prof : Nat)
  | getCoeffFtw0 (ch prof : Nat)
  | getCoeffB0 (ch prof : Nat)
  -- set_state and get_state (R328, R329)
  | setStateY1 (ch prof : Nat) (v : Int)
  | setStateX0 (ch : Nat) (v : Int)
  | setStateX1 (ch : Nat) (v : Int)
  | getStateY1 (ch prof : Nat)
  | getStateX0 (ch : Nat)
  | getStateX1 (ch : Nat)
  -- set_ctrl (R335)
  | setCtrl (ch prof : Nat) (enOut enIir : Bool)
  -- FilterEngine micro-operations (R123)
  | idleWait
  | loadSx
  | loadWr
  | procP0
  | procP1
  | procP2
  | procP3
  | shiftRd
  | shiftWr
  -- acquisition micro-operations (R126)
  | acqIdle
  | acqCnvh
  | acqConv
  | acqRead
  | acqRtt
  -- output micro-operations (R126)
  | outStart
  | outBusy
deriving DecidableEq, Repr

/-- A word of the state memory as the host names it: `y1` of a (channel, profile) pair, `x0` or
`x1` of an ADC channel with no profile (R321 "`profile_or_none`", R328). -/
inductive StateRef where
  | y1 (ch prof : Nat)
  | x0 (ch : Nat)
  | x1 (ch : Nat)
deriving DecidableEq, Repr

/-- The abstract host API of R321, with operands as the caller writes them. -/
inductive HostCall where
  | setCoeff (ch prof : Nat) (f : CoeffField) (v : Int)
  | getCoeff (ch prof : Nat) (f : CoeffField)
  | setState (w : StateRef) (v : Int)
  | getState (w : StateRef)
  | setCtrl (ch prof : Nat) (enOut enIir : Bool)
deriving DecidableEq, Repr

/-- A call of the abstract API of R321 as the caller writes it: the field `name` or the `kind` as
characters, `profile_or_none` as an option. A name or kind that R321 does not list is a call too, and
the machine refuses it (60_exceptions.md rule R376). -/
inductive NamedCall where
  | setCoeff (ch prof : Nat) (name : List Char) (v : Int)
  | getCoeff (ch prof : Nat) (name : List Char)
  | setState (ch : Nat) (prof : Option Nat) (kind : List Char) (v : Int)
  | getState (ch : Nat) (prof : Option Nat) (kind : List Char)
deriving DecidableEq, Repr

/-- The `set_coefficient` row of field `f`. -/
def Instr.setCoeff (f : CoeffField) (ch prof : Nat) (v : Int) : Instr :=
  match f with
  | .ftw1 => .setCoeffFtw1 ch prof v
  | .b1 => .setCoeffB1 ch prof v
  | .pow => .setCoeffPow ch prof v
  | .cfg => .setCoeffCfg ch prof v
  | .offset => .setCoeffOffset ch prof v
  | .a1 => .setCoeffA1 ch prof v
  | .ftw0 => .setCoeffFtw0 ch prof v
  | .b0 => .setCoeffB0 ch prof v

/-- The `get_coefficient` row of field `f`. -/
def Instr.getCoeff (f : CoeffField) (ch prof : Nat) : Instr :=
  match f with
  | .ftw1 => .getCoeffFtw1 ch prof
  | .b1 => .getCoeffB1 ch prof
  | .pow => .getCoeffPow ch prof
  | .cfg => .getCoeffCfg ch prof
  | .offset => .getCoeffOffset ch prof
  | .a1 => .getCoeffA1 ch prof
  | .ftw0 => .getCoeffFtw0 ch prof
  | .b0 => .getCoeffB0 ch prof

/-- The `set_state` row of a state word. -/
def Instr.setState (w : StateRef) (v : Int) : Instr :=
  match w with
  | .y1 ch prof => .setStateY1 ch prof v
  | .x0 ch => .setStateX0 ch v
  | .x1 ch => .setStateX1 ch v

/-- The `get_state` row of a state word. -/
def Instr.getState (w : StateRef) : Instr :=
  match w with
  | .y1 ch prof => .getStateY1 ch prof
  | .x0 ch => .getStateX0 ch
  | .x1 ch => .getStateX1 ch

/-- The instruction a host call stands for. -/
def HostCall.instr : HostCall → Instr
  | .setCoeff ch prof f v => .setCoeff f ch prof v
  | .getCoeff ch prof f => .getCoeff f ch prof
  | .setState w v => .setState w v
  | .getState w => .getState w
  | .setCtrl ch prof o i => .setCtrl ch prof o i

end Sys2Proof
end

