-- ==== Sys2Proof/WellFormed.lean ====
section
/-! DEFINITION. When an instruction is well formed under a configuration: every channel is below
`N_ch` and every profile below `2^P` (20_memory.md rule R90, 44_host_interface.md rules R322, R328,
R335). A value `v` is any integer (30_encoding.md rule R119) and the micro-operations have no
operand, so neither is checked. -/

namespace Sys2Proof

/-- A channel operand names a channel: `c ∈ [0, N_ch)` (R322). -/
def Config.chanOk (c : Config) (ch : Nat) : Bool := decide (ch < c.nCh)

/-- A profile operand names a profile: `p ∈ [0, 2^P)` (R322). -/
def Config.profOk (c : Config) (prof : Nat) : Bool := decide (prof < 2 ^ c.P)

/-- The operands of an instruction are in range under the configuration. -/
def Instr.wellFormed (c : Config) : Instr → Bool
  | .setCoeffFtw1 ch prof _ => c.chanOk ch && c.profOk prof
  | .setCoeffB1 ch prof _ => c.chanOk ch && c.profOk prof
  | .setCoeffPow ch prof _ => c.chanOk ch && c.profOk prof
  | .setCoeffCfg ch prof _ => c.chanOk ch && c.profOk prof
  | .setCoeffOffset ch prof _ => c.chanOk ch && c.profOk prof
  | .setCoeffA1 ch prof _ => c.chanOk ch && c.profOk prof
  | .setCoeffFtw0 ch prof _ => c.chanOk ch && c.profOk prof
  | .setCoeffB0 ch prof _ => c.chanOk ch && c.profOk prof
  | .getCoeffFtw1 ch prof => c.chanOk ch && c.profOk prof
  | .getCoeffB1 ch prof => c.chanOk ch && c.profOk prof
  | .getCoeffPow ch prof => c.chanOk ch && c.profOk prof
  | .getCoeffCfg ch prof => c.chanOk ch && c.profOk prof
  | .getCoeffOffset ch prof => c.chanOk ch && c.profOk prof
  | .getCoeffA1 ch prof => c.chanOk ch && c.profOk prof
  | .getCoeffFtw0 ch prof => c.chanOk ch && c.profOk prof
  | .getCoeffB0 ch prof => c.chanOk ch && c.profOk prof
  | .setStateY1 ch prof _ => c.chanOk ch && c.profOk prof
  | .setStateX0 ch _ => c.chanOk ch
  | .setStateX1 ch _ => c.chanOk ch
  | .getStateY1 ch prof => c.chanOk ch && c.profOk prof
  | .getStateX0 ch => c.chanOk ch
  | .getStateX1 ch => c.chanOk ch
  | .setCtrl ch prof _ _ => c.chanOk ch && c.profOk prof
  | .idleWait => true
  | .loadSx => true
  | .loadWr => true
  | .procP0 => true
  | .procP1 => true
  | .procP2 => true
  | .procP3 => true
  | .shiftRd => true
  | .shiftWr => true
  | .acqIdle => true
  | .acqCnvh => true
  | .acqConv => true
  | .acqRead => true
  | .acqRtt => true
  | .outStart => true
  | .outBusy => true

end Sys2Proof
end

