-- ==== Sys2Proof/Decode.lean ====
section
/-! DEFINITION. The encodings of 30_encoding.md: the host selector (rules R117, R118), the
FilterEngine patterns (R123), the acquisition and output patterns (R126); the decoder, total and
refusing by name; and after it the encoder, written from the same tables. -/

namespace Sys2Proof

/-- One word of the CORE's four word formats: a host selector with its data operand, or a
micro-operation pattern. The formats are separate code spaces (R117, R123, R126). -/
inductive Code (c : Config) where
  /-- format `HOSTOP`: the selector, and the data operand `v` (an integer, R119) -/
  | hostop (sel : BitVec c.selW) (data : Int)
  /-- format `ENGINE`: `{st[1:0], q[1:0]}` -/
  | engine (p : BitVec 4)
  /-- format `ACQ`: `a[2:0]` -/
  | acq (a : BitVec 3)
  /-- format `OUT`: `b` -/
  | out (b : BitVec 1)
deriving DecidableEq, Repr

/-- Why a word stands for no instruction. -/
inductive DecodeError where
  /-- `op ∈ {101, 110, 111}` (R118) -/
  | illegalOp
  /-- `op ∈ {010, 011}` with `kind ∉ {000, 001, 010}` (R118) -/
  | illegalKind
  /-- x0 or x1 with `prof ≠ 0` (R118) -/
  | profileGiven
  /-- `op = 100` with `kind[2] = 1` (R118) -/
  | ctrlKindBit
  /-- no field has the index `kind`: only where `COEFF_FIELD_INDEX` is no bijection (CF9) -/
  | noSuchField
  /-- an ENGINE pattern of no row: LOAD or SHIFT with `q ∉ {00, 01}` (R123) -/
  | noEnginePattern
  /-- `a ∈ {101, 110, 111}` (R126) -/
  | noAcqState
deriving DecidableEq, Repr

/-! ## Fields of a selector: `sel = {op[2:0], ch[C-1:0], prof[P-1:0], kind[2:0]}` (R117) -/

/-- `kind[2:0]`, the least significant field. -/
def selKind (c : Config) (sel : BitVec c.selW) : BitVec 3 := sel.extractLsb' 0 3
/-- `prof[P-1:0]`. -/
def selProf (c : Config) (sel : BitVec c.selW) : BitVec c.P := sel.extractLsb' 3 c.P
/-- `ch[C-1:0]`. -/
def selCh (c : Config) (sel : BitVec c.selW) : BitVec c.C := sel.extractLsb' (3 + c.P) c.C
/-- `op[2:0]`, the most significant field. -/
def selOp (c : Config) (sel : BitVec c.selW) : BitVec 3 := sel.extractLsb' (3 + c.P + c.C) 3

/-- The state word a selector of `op ∈ {010, 011}` names: `kind` 000 y1, 001 x0, 010 x1, the last
two with `prof = 0` (R117, R118). -/
def decodeStateRef (c : Config) (sel : BitVec c.selW) : Except DecodeError StateRef :=
  let ch := (selCh c sel).toNat
  let prof := (selProf c sel).toNat
  if selKind c sel = 0 then .ok (.y1 ch prof)
  else if selKind c sel = 1 then if prof = 0 then .ok (.x0 ch) else .error .profileGiven
  else if selKind c sel = 2 then if prof = 0 then .ok (.x1 ch) else .error .profileGiven
  else .error .illegalKind

/-- A host selector and its data operand (R117, R118). -/
def decodeHostop (c : Config) (sel : BitVec c.selW) (v : Int) : Except DecodeError Instr :=
  let ch := (selCh c sel).toNat
  let prof := (selProf c sel).toNat
  let kind := selKind c sel
  if selOp c sel = 0 then
    match c.fieldAt kind with
    | some f => .ok (.setCoeff f ch prof v)
    | none => .error .noSuchField
  else if selOp c sel = 1 then
    match c.fieldAt kind with
    | some f => .ok (.getCoeff f ch prof)
    | none => .error .noSuchField
  else if selOp c sel = 2 then
    match decodeStateRef c sel with
    | .ok w => .ok (.setState w v)
    | .error e => .error e
  else if selOp c sel = 3 then
    match decodeStateRef c sel with
    | .ok w => .ok (.getState w)
    | .error e => .error e
  else if selOp c sel = 4 then
    if kind.getLsbD 2 then .error .ctrlKindBit
    else .ok (.setCtrl ch prof (kind.getLsbD 1) (kind.getLsbD 0))
  else .error .illegalOp

/-- A FilterEngine pattern `{st, q}` (R123): in IDLE `q` is ignored. -/
def decodeEngine (p : BitVec 4) : Except DecodeError Instr :=
  let st := p.extractLsb' 2 2
  let q := p.extractLsb' 0 2
  if st = 0 then .ok .idleWait
  else if st = 1 then
    if q = 0 then .ok .loadSx else if q = 1 then .ok .loadWr else .error .noEnginePattern
  else if st = 2 then
    if q = 0 then .ok .procP0 else if q = 1 then .ok .procP1
    else if q = 2 then .ok .procP2 else .ok .procP3
  else
    if q = 0 then .ok .shiftRd else if q = 1 then .ok .shiftWr else .error .noEnginePattern

/-- An acquisition pattern (R126). -/
def decodeAcq (a : BitVec 3) : Except DecodeError Instr :=
  if a = 0 then .ok .acqIdle
  else if a = 1 then .ok .acqCnvh
  else if a = 2 then .ok .acqConv
  else if a = 3 then .ok .acqRead
  else if a = 4 then .ok .acqRtt
  else .error .noAcqState

/-- An output pattern (R126). -/
def decodeOut (b : BitVec 1) : Except DecodeError Instr :=
  if b = 0 then .ok .outStart else .ok .outBusy

/-- The decoder: total, one instruction or a refusal by name. -/
def decode (c : Config) : Code c → Except DecodeError Instr
  | .hostop sel v => decodeHostop c sel v
  | .engine p => decodeEngine p
  | .acq a => decodeAcq a
  | .out b => decodeOut b

/-! ## The encoder -/

/-- `{op, ch, prof, kind}` (R117). A channel or profile outside its range is cut to its field: only
a well-formed instruction has a selector that names it. -/
def selector (c : Config) (op : BitVec 3) (ch prof : Nat) (kind : BitVec 3) : BitVec c.selW :=
  op ++ BitVec.ofNat c.C ch ++ BitVec.ofNat c.P prof ++ kind

/-- `kind = {0, en_out, en_iir}` of `set_ctrl` (R117). -/
def ctrlKind (enOut enIir : Bool) : BitVec 3 :=
  BitVec.ofBool false ++ BitVec.ofBool enOut ++ BitVec.ofBool enIir

/-- The word of an instruction (R117, R123, R126). -/
def encode (c : Config) : Instr → Code c
  | .setCoeffFtw1 ch prof v => .hostop (selector c 0 ch prof (c.idx .ftw1)) v
  | .setCoeffB1 ch prof v => .hostop (selector c 0 ch prof (c.idx .b1)) v
  | .setCoeffPow ch prof v => .hostop (selector c 0 ch prof (c.idx .pow)) v
  | .setCoeffCfg ch prof v => .hostop (selector c 0 ch prof (c.idx .cfg)) v
  | .setCoeffOffset ch prof v => .hostop (selector c 0 ch prof (c.idx .offset)) v
  | .setCoeffA1 ch prof v => .hostop (selector c 0 ch prof (c.idx .a1)) v
  | .setCoeffFtw0 ch prof v => .hostop (selector c 0 ch prof (c.idx .ftw0)) v
  | .setCoeffB0 ch prof v => .hostop (selector c 0 ch prof (c.idx .b0)) v
  | .getCoeffFtw1 ch prof => .hostop (selector c 1 ch prof (c.idx .ftw1)) 0
  | .getCoeffB1 ch prof => .hostop (selector c 1 ch prof (c.idx .b1)) 0
  | .getCoeffPow ch prof => .hostop (selector c 1 ch prof (c.idx .pow)) 0
  | .getCoeffCfg ch prof => .hostop (selector c 1 ch prof (c.idx .cfg)) 0
  | .getCoeffOffset ch prof => .hostop (selector c 1 ch prof (c.idx .offset)) 0
  | .getCoeffA1 ch prof => .hostop (selector c 1 ch prof (c.idx .a1)) 0
  | .getCoeffFtw0 ch prof => .hostop (selector c 1 ch prof (c.idx .ftw0)) 0
  | .getCoeffB0 ch prof => .hostop (selector c 1 ch prof (c.idx .b0)) 0
  | .setStateY1 ch prof v => .hostop (selector c 2 ch prof 0) v
  | .setStateX0 ch v => .hostop (selector c 2 ch 0 1) v
  | .setStateX1 ch v => .hostop (selector c 2 ch 0 2) v
  | .getStateY1 ch prof => .hostop (selector c 3 ch prof 0) 0
  | .getStateX0 ch => .hostop (selector c 3 ch 0 1) 0
  | .getStateX1 ch => .hostop (selector c 3 ch 0 2) 0
  | .setCtrl ch prof o i => .hostop (selector c 4 ch prof (ctrlKind o i)) 0
  | .idleWait => .engine 0
  | .loadSx => .engine 4
  | .loadWr => .engine 5
  | .procP0 => .engine 8
  | .procP1 => .engine 9
  | .procP2 => .engine 10
  | .procP3 => .engine 11
  | .shiftRd => .engine 12
  | .shiftWr => .engine 13
  | .acqIdle => .acq 0
  | .acqCnvh => .acq 1
  | .acqConv => .acq 2
  | .acqRead => .acq 3
  | .acqRtt => .acq 4
  | .outStart => .out 0
  | .outBusy => .out 1

/-- The selector of an operation as a number, its four parts added at their places. For operands in
range it is the selector of R117; an operand outside its range is not cut, so that the record of
`F_HOST_BAD_OP` (R376 "Info: the selector") still tells it (log entry 14). -/
def selectorNumber (c : Config) (op ch prof kind : Nat) : Nat :=
  op * 2 ^ (c.C + c.P + 3) + ch * 2 ^ (c.P + 3) + prof * 2 ^ 3 + kind

/-! ## Words as the opcode table numbers them -/

/-- The word of the table's row format that `nbits` bits `w` are, at the reference widths the table
is written for. 14 bits (or 16, whole bytes) and more: a selector in bits 13..0, bits 15..14 zero,
and the data operand from bit 16 on. 4, 3 and 1 bits: ENGINE, ACQ, OUT. A whole byte is ambiguous
(three formats of the table share it): it is read as the ENGINE row it is exactly, and the bytes
1, 2, 3 (which as ENGINE words are only IDLE_WAIT with an ignored `q`) as the ACQ rows they are
exactly (log entry 18). -/
def tableCode (nbits w : Nat) : Option (Code Config.reference) :=
  if 9 ≤ nbits then
    if w % 2 ^ 16 < 2 ^ 14 then
      some (.hostop (BitVec.ofNat Config.reference.selW (w % 2 ^ 16)) (w / 2 ^ 16 : Nat))
    else none
  else if nbits = 4 then if w < 2 ^ 4 then some (.engine (BitVec.ofNat 4 w)) else none
  else if nbits = 3 then if w < 2 ^ 3 then some (.acq (BitVec.ofNat 3 w)) else none
  else if nbits = 1 then if w < 2 then some (.out (BitVec.ofNat 1 w)) else none
  else if w = 1 ∨ w = 2 ∨ w = 3 then some (.acq (BitVec.ofNat 3 w))
  else if w < 2 ^ 4 then some (.engine (BitVec.ofNat 4 w))
  else none

/-- The instruction the decoder reads from an opcode-table word. -/
def decodeTableWord (nbits w : Nat) : Option Instr :=
  match tableCode nbits w with
  | some code =>
    match decode Config.reference code with
    | .ok i => some i
    | .error _ => none
  | none => none

end Sys2Proof
end

