-- ==== Sys2Proof/Machine/Params.lean ====
section
/-! DEFINITION. The derived quantities of the configuration (00_scope.md rule R9, 43_scheduler.md
rule R290) and the configuration checks CF1 to CF9 (60_exceptions.md rules R361, R362). -/

namespace Sys2Proof
namespace Config

/-- `t_read = width·N_ch/lanes/2` (R9, 40_acquisition.md rule R150), an integer under CF2. DESIGN
CHOICE where CF2 fails: the floor of each quotient, and 0 with `lanes = 0`; it decides only whether
CF5 and CF8 stand in the list of failed checks beside CF2 (log entry 34). -/
def tRead (c : Config) : Nat := c.W * c.nCh / c.acq.lanes / 2

/-- `T_acq = t_cnvh + t_conv + t_read + t_rtt` (R9, R157). -/
def tAcq (c : Config) : Nat := c.acq.tCnvh + c.acq.tConv + c.tRead + c.acq.tRtt

/-- `T_load = 2·N_ch` (R9, R192). -/
def tLoad (c : Config) : Nat := 2 * c.nCh

/-- `T_proc = 4·N_ch + 4` (R9, R192). -/
def tProc (c : Config) : Nat := 4 * c.nCh + 4

/-- `T_shift = 2·N_ch` (R9, R192). -/
def tShift (c : Config) : Nat := 2 * c.nCh

/-- `t_filter = 1 + T_load + T_proc`: filter start to shift entry (R9, R192). -/
def tFilter (c : Config) : Nat := 1 + c.tLoad + c.tProc

/-- `t_output = (2·OW + 1)·clk_divisor + 1` (R9, R264). -/
def tOutput (c : Config) : Nat := (2 * c.OW + 1) * c.out.clkDivisor + 1

/-- `t_cycle = max(T_acq, t_filter, t_output)` (R9, R290). -/
def tCycle (c : Config) : Nat := max c.tAcq (max c.tFilter c.tOutput)

/-- The eight field indices, in the order of `CoeffField`. -/
def indices (c : Config) : List (BitVec 3) :=
  [c.idx .ftw1, c.idx .b1, c.idx .pow, c.idx .cfg, c.idx .offset, c.idx .a1, c.idx .ftw0, c.idx .b0]

/-- The checks of R362. -/
inductive Check where
  | cf1 | cf2 | cf3 | cf4 | cf5 | cf6 | cf7 | cf8 | cf9
deriving DecidableEq, Repr

/-- The condition of a check (R362). What R362's CF9 asks beyond the bijection (`UPD_DELAY ≥ 0`,
`CMD_BYTE < 256`, `SH ≥ 0`, `P ≥ 0`, the two values of `MEM_INIT`) holds by the fields' types. -/
def holds (c : Config) : Check → Bool
  | .cf1 => decide (c.S + c.K + 3 ≤ c.A)
  | .cf2 => decide (1 ≤ c.acq.lanes) && decide (c.nCh % c.acq.lanes = 0)
      && decide (c.W * c.nCh % (2 * c.acq.lanes) = 0)
  | .cf3 => decide (0 < c.acq.tCnvh) && decide (0 < c.acq.tConv) && decide (0 < c.acq.tRtt)
      && decide (0 < c.out.clkDivisor) && decide (0 < c.W)
  | .cf4 => decide (c.acq.channels = c.nCh) && decide (c.out.channels = c.nCh) && decide (c.C ≤ 8)
  | .cf5 => decide (8 * c.nCh + 5 < c.tCycle)
  | .cf6 => decide (c.filt.adc = c.W) && decide (c.W + c.xAlign ≤ c.S)
      && decide (c.K + c.offsetAlign ≤ c.S) && decide (16 ≤ c.K) && decide (c.WD ≤ c.K)
      && decide (1 ≤ c.ASF) && decide (c.ASF ≤ c.S - 1) && decide (c.ASF ≤ c.WD)
      && decide (c.OW = 4 * c.WD + 8)
  | .cf7 => decide (2 ≤ c.acq.tConv)
  | .cf8 => decide (c.tRead + c.acq.tRtt + 2 * c.nCh ≤ c.tCycle)
  | .cf9 => decide c.indices.Nodup

/-- The checks a configuration fails, in order (R361 "the model returns the list of failed
checks"). -/
def failedChecks (c : Config) : List Check :=
  [Check.cf1, .cf2, .cf3, .cf4, .cf5, .cf6, .cf7, .cf8, .cf9].filter fun k => !c.holds k

/-- The configuration passes every check (R361). -/
def valid (c : Config) : Bool := decide (c.failedChecks = [])

end Config
end Sys2Proof
end

