-- ==== Sys2Proof/Machine/State.lean ====
section
/-! DEFINITION. The state of the CORE (10_state.md), as plain data: every register of R54's table,
the two memories (20_memory.md), the fault record (R50), and the model's own fields for the inputs
and outputs of a tick (R52, R46, R320). The configuration stands in the state as a field no tick
changes (R32, log entry 1), and every width is taken from it. -/

namespace Sys2Proof.Machine

/-! ## Parts of the state -/

/-- One channel's ChannelControl record `{profile, en_out, en_iir}` (R33). -/
structure ChanCtl (c : Config) where
  profile : BitVec c.P
  enOut : Bool
  enIir : Bool
deriving DecidableEq, Repr

/-- A memory: (address, word) cells, addresses strictly rising, no cell equal to what an unlisted
address reads as (log entry 7). The spec's memories are word-addressed (R80), so a cell holds a
word of the memory's own width. An address is listed exactly when it carries the written mark of
R51 (with `MEM_INIT = unspecified`; with `zero` there are no marks). -/
abbrev Mem (w : Nat) := List (Nat × BitVec w)

/-- `acq_state` (R35). -/
inductive AcqState where
  | idle | cnvh | conv | read | rtt
deriving DecidableEq, Repr

/-- `f_state` (R37). -/
inductive FState where
  | idle | load | process | shift
deriving DecidableEq, Repr

/-- The AcquisitionController's registers (R35). -/
structure AcqRegs (c : Config) where
  /-- `acq_state` -/
  state : AcqState
  /-- `acq_cnt`, the countdown -/
  cnt : Nat
  /-- `data[ch]`, the samples of the last acquisition -/
  data : Vector (BitVec c.W) c.nCh
deriving DecidableEq, Repr

/-- One channel's entry of the output buffer `OB` (R43). -/
structure OutWord (c : Config) where
  ftw0 : BitVec c.WD
  ftw1 : BitVec c.WD
  pow : BitVec c.WD
  asf : BitVec c.ASF
deriving DecidableEq, Repr

/-- `DELAY_WIDTH`, the bits of `output_delay` and of the delay counters (00_scope.md rule R8). -/
abbrev delayWidth : Nat := 8

/-- The FilterEngine's registers (R37 to R43). -/
structure FiltRegs (c : Config) where
  /-- `f_state` -/
  state : FState
  /-- `f_k`, the tick index within the major state -/
  k : Nat
  /-- `LAT[c]`, the control latch (R38) -/
  lat : Vector (ChanCtl c) c.nCh
  /-- `SX`, the LOAD sample register (R39) -/
  sx : BitVec c.S
  /-- `CQ[φ]`, the words of the channel being fetched (R40) -/
  cq : Vector (BitVec (c.K + c.K)) 4
  /-- `CX[φ]`, the words of the channel being computed (R40) -/
  cx : Vector (BitVec (c.K + c.K)) 4
  /-- `acc`, the accumulator (R41) -/
  acc : BitVec c.A
  /-- `SD`, the state-port read register (R41) -/
  sd : BitVec c.S
  /-- `YO`, the old-output register (R41) -/
  yo : BitVec c.S
  /-- `dly[c]`, the delay counters (R42) -/
  dly : Vector (BitVec delayWidth) c.nCh
  /-- `OB[c]`, the output buffer (R43) -/
  ob : Vector (OutWord c) c.nCh
deriving DecidableEq, Repr

/-- The OutputAssembler's registers (R45). -/
structure OutRegs (c : Config) where
  /-- `o_busy` -/
  busy : Bool
  /-- `o_cnt` -/
  cnt : Nat
  /-- `FR[c]`, the frames being sent -/
  fr : Vector (BitVec c.OW) c.nCh
  /-- `DL[j]`, the delay line of `UPD_DELAY + 1` bits, `DL[j]` at bit `j` -/
  dl : BitVec (c.updDelay + 1)
deriving DecidableEq, Repr

/-- The CycleScheduler's registers (R47). -/
structure SchedRegs where
  /-- `cnt`, the free-running down-counter -/
  cnt : Nat
  /-- `token[0]` -/
  token0 : Bool
  /-- `token[1]` -/
  token1 : Bool
deriving DecidableEq, Repr

/-! ## Contract faults (60_exceptions.md) -/

/-- The contract faults of R378. They are recorded and halt the CORE; they are no outcome `fault`
of a step (log entry 16). -/
inductive FaultCode where
  | coeffWriteActive | stateReadBusy | stateWriteConflict | ctrlWriteBusy
  | startBusyAcq | startBusyIir | startBusyOut
  | uninitRead | hostBadOp | adcDataInvalid
deriving DecidableEq, Repr

/-- Which memory an `F_UNINIT_READ` names (R375). -/
inductive MemId where
  | cm | sm
deriving DecidableEq, Repr

/-- The `info` of a fault record, as R370 to R378 give it. -/
inductive FaultInfo where
  | none
  /-- `(c, p, f)` (R370) -/
  | coeff (ch prof : Nat) (f : CoeffField)
  /-- `(c, p, kind)` (R371, R372); x0 and x1 have no profile -/
  | state (w : StateRef)
  /-- a channel (R373, R377) -/
  | chan (ch : Nat)
  /-- the memory and the word address (R375) -/
  | mem (m : MemId) (addr : Nat)
  /-- the selector (R376) -/
  | selector (sel : Nat)
  /-- the call itself, where an unknown field name or kind leaves it no selector (R376; log entry
  14) -/
  | call (n : NamedCall)
deriving DecidableEq, Repr

/-- A record `{code, tick, info}` (R366). -/
structure FaultRec where
  code : FaultCode
  tick : Nat
  info : FaultInfo
deriving DecidableEq, Repr

/-! ## Inputs and outputs of a tick (the model's own fields) -/

/-- A host operation as the input of a tick (R320): a selector word with its data operand (R117), a
call of the abstract API (R321), or such a call with its field name or kind as written (R376). -/
inductive HostOp (c : Config) where
  | word (sel : BitVec c.selW) (data : Int)
  | call (h : HostCall)
  | named (n : NamedCall)
deriving DecidableEq, Repr

/-- The inputs of one tick (R52): `enable`, at most one host operation, and the samples the
environment drives, each `none` where it is left to the free draw (R158). -/
structure TickInput (c : Config) where
  enable : Bool
  op : Option (HostOp c)
  samples : Vector (Option (BitVec c.W)) c.nCh
deriving DecidableEq, Repr

/-- What the environment does next: a tick with its inputs, a reset (R400), a power-up (R402). -/
inductive Event (c : Config) where
  | tick (inp : TickInput c)
  | reset
  | powerUp
deriving DecidableEq, Repr

/-- Host read data `hrd` of a tick (R321, R323, R329). -/
inductive HostData (c : Config) where
  | coeff (v : BitVec c.K)
  | state (v : BitVec c.S)
deriving DecidableEq, Repr

/-- The outputs of the last tick that no register holds: `hrd` (R320), the strobe `io_update`
(R268), the frames delivered (R265), the DSP's `clip` indication (R211). The other outputs are
functions of the state (R36, R44, R46). -/
structure TickOut (c : Config) where
  hrd : Option (HostData c)
  ioUpdate : Bool
  delivered : Option (Vector (BitVec c.OW) c.nCh)
  clip : Option Bool
deriving DecidableEq, Repr

/-! ## The state -/

/-- Everything a tick reads and writes, under the configuration `c`. -/
structure Regs (c : Config) where
  /-- `CTRL[c]`, ChannelControl (R33) -/
  ctrl : Vector (ChanCtl c) c.nCh
  /-- `CM`, the coefficient memory, one cell per `K`-bit half (R81, R51) -/
  cm : Mem c.K
  /-- `SM`, the state memory (R85, R51) -/
  sm : Mem c.S
  acq : AcqRegs c
  filt : FiltRegs c
  out : OutRegs c
  sched : SchedRegs
  /-- `FAULTS` (R50) -/
  faults : List FaultRec
  /-- MODEL'S OWN: the number of the tick since reset (R366 `tick: t`, R400) -/
  now : Nat
  /-- MODEL'S OWN: the inputs of the tick being evaluated (R52) -/
  inp : TickInput c
  /-- MODEL'S OWN: what the environment does in the coming ticks, first event first -/
  script : List (Event c)
  /-- MODEL'S OWN: acquisition completions so far, the counter of the free sample draw (R158) -/
  draws : Nat
  /-- MODEL'S OWN: the outputs of the last tick -/
  outs : TickOut c
deriving DecidableEq, Repr

/-- The state of the machine: its configuration, which no step changes (R32), and its registers,
memories and inputs. -/
structure State where
  cfg : Config
  regs : Regs cfg
deriving DecidableEq, Repr

/-- Why a step stops. SAFE: the only stop is the spec's own. -/
inductive Fault where
  /-- Raised by `step` alone, in every state whose configuration fails a check of R362: "construction
  is refused. The model returns the list of failed checks and no state, and no tick is defined"
  (R361). It carries that list. Safe: nothing happens. -/
  | configuration (failed : List Config.Check)
deriving DecidableEq, Repr

/-- Why an instruction is refused. -/
inductive Refusal where
  /-- Raised by a refused arm of `exec`: an instruction without a meaning. No arm uses it. Safe. -/
  | notModelled (mnemonic : String)
deriving DecidableEq, Repr

/-! ## Reset (R54, 70_reset_and_hazards.md) -/

/-- `{profile 0, en_out 0, en_iir 0}` (R34, R38). -/
def ChanCtl.off (c : Config) : ChanCtl c := { profile := 0, enOut := false, enIir := false }

/-- A tick with no host operation in which the environment leaves every sample to the draw. -/
def TickInput.quiet (c : Config) (enable : Bool) : TickInput c :=
  { enable := enable, op := none, samples := Vector.replicate c.nCh none }

/-- No output that a register does not hold. -/
def TickOut.quiet (c : Config) : TickOut c :=
  { hrd := none, ioUpdate := false, delivered := none, clip := none }

/-- R54's acquisition registers; `data` is unspecified there (log entry 5). -/
def AcqRegs.atReset (c : Config) : AcqRegs c :=
  { state := .idle, cnt := 0, data := Vector.replicate c.nCh 0 }

/-- R54's filter registers; `SX`, `CQ`, `CX`, `acc`, `SD`, `YO`, `OB` are unspecified there (log
entry 5). -/
def FiltRegs.atReset (c : Config) : FiltRegs c :=
  { state := .idle, k := 0, lat := Vector.replicate c.nCh (ChanCtl.off c)
    sx := 0, cq := Vector.replicate 4 0, cx := Vector.replicate 4 0, acc := 0, sd := 0, yo := 0
    dly := Vector.replicate c.nCh 0
    ob := Vector.replicate c.nCh { ftw0 := 0, ftw1 := 0, pow := 0, asf := 0 } }

/-- R54's output registers; `FR` is unspecified there (log entry 5). -/
def OutRegs.atReset (c : Config) : OutRegs c :=
  { busy := false, cnt := 0, fr := Vector.replicate c.nCh 0, dl := BitVec.allOnes (c.updDelay + 1) }

/-- R54's scheduler registers. -/
def SchedRegs.atReset : SchedRegs := { cnt := 0, token0 := false, token1 := false }

/-- The CORE after power-up under the configuration `c`: every register as R54 says, nothing in
either memory (R402), `enable` driven 0 and nothing scripted (R404). -/
def Regs.atPowerUp (c : Config) : Regs c :=
  { ctrl := Vector.replicate c.nCh (ChanCtl.off c)
    cm := []
    sm := []
    acq := AcqRegs.atReset c
    filt := FiltRegs.atReset c
    out := OutRegs.atReset c
    sched := SchedRegs.atReset
    faults := []
    now := 0
    inp := TickInput.quiet c false
    script := []
    draws := 0
    outs := TickOut.quiet c }

/-- The machine right after reset, at power-up, under the reference configuration. -/
def State.reset : State := { cfg := Config.reference, regs := Regs.atPowerUp Config.reference }

end Sys2Proof.Machine
end

