-- ==== Sys2Proof/Machine/Ops.lean ====
section
/-! DEFINITION. The named operations over memories and registers: addresses (20_memory.md rules
R82, R85), reads and writes of the two memories (R86, R89, R51), recording a contract fault
(60_exceptions.md rule R366), reset and power-up (70_reset_and_hazards.md rules R400, R402). -/

namespace Sys2Proof.Machine

/-! ## Memories -/

namespace Mem

/-- The cell listed at `a`, if any. -/
def find {w : Nat} (m : Mem w) (a : Nat) : Option (BitVec w) :=
  match m with
  | [] => none
  | (b, v) :: rest => if b = a then some v else find rest a

/-- List `v` at `a`, keeping the addresses rising. -/
def insert {w : Nat} (m : Mem w) (a : Nat) (v : BitVec w) : Mem w :=
  match m with
  | [] => [(a, v)]
  | (b, u) :: rest =>
    if a < b then (a, v) :: (b, u) :: rest
    else if a = b then (a, v) :: rest
    else (b, u) :: insert rest a v

/-- List nothing at `a`. -/
def erase {w : Nat} (m : Mem w) (a : Nat) : Mem w :=
  match m with
  | [] => []
  | (b, u) :: rest => if b = a then rest else (b, u) :: erase rest a

/-- What an unlisted address reads as: nothing with `MEM_INIT = unspecified`, 0 with `zero` (R51,
R402). -/
def unlisted (w : Nat) : MemInit → Option (BitVec w)
  | .unspecified => none
  | .zero => some 0

/-- The word at `a`, none where no write has defined it (R51, R375). -/
def read {w : Nat} (ini : MemInit) (m : Mem w) (a : Nat) : Option (BitVec w) :=
  match m.find a with
  | some v => some v
  | none => unlisted w ini

/-- Write `v` at `a`, marking it written (R51). Writing what an unlisted address reads as unlists
the address. -/
def write {w : Nat} (ini : MemInit) (m : Mem w) (a : Nat) (v : BitVec w) : Mem w :=
  if unlisted w ini = some v then m.erase a else m.insert a v

/-- Every address of the list lies above `a`. -/
def above {w : Nat} (a : Nat) (m : Mem w) : Bool := m.all fun p => decide (a < p.1)

/-- The canonical form: addresses strictly rising, no cell equal to what an unlisted address reads
as. -/
def wf {w : Nat} (ini : MemInit) (m : Mem w) : Bool :=
  match m with
  | [] => true
  | (a, v) :: rest => above a rest && decide (unlisted w ini ≠ some v) && wf ini rest

/-- Every listed address is below `n`. -/
def below {w : Nat} (n : Nat) (m : Mem w) : Bool := m.all fun p => decide (p.1 < n)

end Mem

/-! ## Addresses -/

/-- `cm_addr(c, p, w) = (c << (P+2)) | (p << 2) | w` (R82, R206). -/
def cmAddr (c : Config) (ch prof word : Nat) : Nat :=
  (ch <<< (c.P + 2)) ||| (prof <<< 2) ||| word

/-- `idx >> 1`: which of a pair's four words holds the field of index `idx` (R82). -/
def wordOf (idx : BitVec 3) : Nat := idx.toNat / 2

/-- `cm_half = idx & 1`: whether the field is the high half of its word (R82, R83). -/
def isHigh (idx : BitVec 3) : Bool := idx.getLsbD 0

/-- The cell of one half of the `CM` word at `addr`: the two halves of a word are neighbouring
cells, low half first (R83, R51; log entry 7). -/
def cmCell (addr : Nat) (high : Bool) : Nat := 2 * addr + (if high then 1 else 0)

/-- The words of `CM`: `2^(C+P+2)` (R81). -/
def cmWords (c : Config) : Nat := 2 ^ (c.C + c.P + 2)

/-- `sm_y1(c, p) = (p << C) | c` (R85). -/
def smY1 (c : Config) (ch prof : Nat) : Nat := (prof <<< c.C) ||| ch

/-- `sm_x0(ch) = (2^P << C) | ch` (R85). -/
def smX0 (c : Config) (ch : Nat) : Nat := ((2 ^ c.P) <<< c.C) ||| ch

/-- `sm_x1(ch) = ((2^P + 1) << C) | ch` (R85). -/
def smX1 (c : Config) (ch : Nat) : Nat := ((2 ^ c.P + 1) <<< c.C) ||| ch

/-- The words of `SM`: `2^(P+C) + 2^(C+1)` (R85). -/
def smWords (c : Config) : Nat := 2 ^ (c.P + c.C) + 2 ^ (c.C + 1)

/-- The address of a state word the host names (R328). -/
def smAddr (c : Config) : StateRef → Nat
  | .y1 ch prof => smY1 c ch prof
  | .x0 ch => smX0 c ch
  | .x1 ch => smX1 c ch

/-! ## Channels -/

/-- The channel a walk's index names, of `C` bits (R37; log entry 13). -/
def chanOf (c : Config) (n : Nat) : Fin c.nCh := ⟨n % c.nCh, Nat.mod_lt _ (Nat.two_pow_pos _)⟩

/-! ## Recording a contract fault (R366) -/

/-- The code number of R378's table. -/
def FaultCode.number : FaultCode → Nat
  | .coeffWriteActive => 1
  | .stateReadBusy => 2
  | .stateWriteConflict => 3
  | .ctrlWriteBusy => 4
  | .startBusyAcq => 5
  | .startBusyIir => 6
  | .startBusyOut => 7
  | .uninitRead => 8
  | .hostBadOp => 9
  | .adcDataInvalid => 10

/-- Add a record to the set `FAULTS` (R50, R366); a record already in it is not added again. -/
def addFault (fs : List FaultRec) (f : FaultRec) : List FaultRec :=
  if f ∈ fs then fs else fs ++ [f]

/-- Add several records. -/
def addFaults (fs new : List FaultRec) : List FaultRec := new.foldl addFault fs

/-- `raise F(info)` in the tick `now` (R366): the record is all a fault writes (R368). -/
def Regs.raise {c : Config} (r : Regs c) (code : FaultCode) (info : FaultInfo) : Regs c :=
  { r with faults := addFault r.faults { code := code, tick := r.now, info := info } }

/-! ## Reads and writes of the two memories -/

/-- The half cell of `CM` a host operation names, as committed at the end of the previous tick
(R323). -/
def Regs.cmHalf {c : Config} (r : Regs c) (addr : Nat) (high : Bool) : Option (BitVec c.K) :=
  r.cm.read c.memInit (cmCell addr high)

/-- `CoefRead(addr)`: the whole word `{hi, lo}`, defined when both halves are (R12, R89, R110,
R375). -/
def Regs.coefRead {c : Config} (r : Regs c) (addr : Nat) : Option (BitVec (c.K + c.K)) :=
  match r.cmHalf addr true, r.cmHalf addr false with
  | some hi, some lo => some (hi ++ lo)
  | _, _ => none

/-- `StRead(addr)` (R12, R86). -/
def Regs.stRead {c : Config} (r : Regs c) (addr : Nat) : Option (BitVec c.S) :=
  r.sm.read c.memInit addr

/-- `StWrite(addr, v)` (R12, R86). -/
def Regs.stWrite {c : Config} (r : Regs c) (addr : Nat) (v : BitVec c.S) : Regs c :=
  { r with sm := r.sm.write c.memInit addr v }

/-- The host's write of one half of a `CM` word, the other half unchanged (R322, R89). -/
def Regs.cmWriteHalf {c : Config} (r : Regs c) (addr : Nat) (high : Bool) (v : BitVec c.K) : Regs c :=
  { r with cm := r.cm.write c.memInit (cmCell addr high) v }

/-! ## Reset -/

/-- The reset event: every register takes its value of R54, `FAULTS` is emptied, and both memories
keep their contents and marks (R400). What the environment drives is no register of the CORE and
stays (log entry 6). -/
def Regs.applyReset {c : Config} (r : Regs c) : Regs c :=
  { Regs.atPowerUp c with
    cm := r.cm
    sm := r.sm
    inp := TickInput.quiet c r.inp.enable
    script := r.script
    draws := r.draws }

/-- Power-up: a reset whose memories hold what `MEM_INIT` says (R402). -/
def Regs.applyPowerUp {c : Config} (r : Regs c) : Regs c :=
  { r.applyReset with cm := [], sm := [] }

/-! ## Outcomes -/

/-- A meaning's answer: the next state, its configuration the one it had (R32). -/
def nextWith (s : State) (r : Regs s.cfg) : Host.Outcome State Fault Refusal :=
  .next { cfg := s.cfg, regs := r }

end Sys2Proof.Machine
end

