-- ==== Sys2Proof/Machine/Flags.lean ====
section
/-! DEFINITION. Status signals, start pulses and flags: all functions of the state at the start of
the tick (10_state.md rules R36, R44, R46, R53; 43_scheduler.md rules R291, R293, R294;
42_output_assembler.md rule R268; 60_exceptions.md rule R367). -/

namespace Sys2Proof.Machine.Regs

variable {c : Config}

/-! ## AcquisitionController (R36) -/

/-- `acq_done = (acq_state = IDLE)`. -/
def acqDone (r : Regs c) : Bool := r.acq.state == .idle

/-- `reading = (acq_state ∈ {READ, RTT})`. -/
def reading (r : Regs c) : Bool := r.acq.state == .read || r.acq.state == .rtt

/-- `cnv = (acq_state = CNVH)`, the conversion strobe. -/
def cnv (r : Regs c) : Bool := r.acq.state == .cnvh

/-- `sck_en = (acq_state = READ)`, the serial clock enable. -/
def sckEn (r : Regs c) : Bool := r.acq.state == .read

/-! ## FilterEngine (R44) -/

/-- `f_done = (f_state = IDLE)`. -/
def fDone (r : Regs c) : Bool := r.filt.state == .idle

/-- `loading = (f_state = LOAD)`. -/
def loading (r : Regs c) : Bool := r.filt.state == .load

/-- `processing = (f_state = PROCESS)`. -/
def processing (r : Regs c) : Bool := r.filt.state == .process

/-- `shifting = (f_state = SHIFT)`. -/
def shifting (r : Regs c) : Bool := r.filt.state == .shift

/-- `shift_entry = (f_state = SHIFT ∧ f_k = 0)`. -/
def shiftEntry (r : Regs c) : Bool := r.filt.state == .shift && r.filt.k == 0

/-! ## OutputAssembler (R46, R265, R268) -/

/-- `o_done = ¬o_busy`. -/
def oDone (r : Regs c) : Bool := !r.out.busy

/-- `d(t) = o_done(t - UPD_DELAY)` (R268). -/
def delayedDone (r : Regs c) : Bool :=
  if c.updDelay = 0 then r.oDone else r.out.dl.getLsbD (c.updDelay - 1)

/-- `io_update = d(t) and not d(t-1)`, with `d(t-1) = DL[UPD_DELAY]` (R268). -/
def ioUpdate (r : Regs c) : Bool := r.delayedDone && !r.out.dl.getLsbD c.updDelay

/-- `o_done` rises in this tick: it is 1 and was 0 in the tick before, `DL[0] = o_done(t-1)` (R45,
R265). -/
def oDoneRises (r : Regs c) : Bool := r.oDone && !r.out.dl.getLsbD 0

/-! ## Start pulses of the CycleScheduler -/

/-- `acq_start = enable and (cnt = 0)` (R291). -/
def acqStart (r : Regs c) : Bool := r.inp.enable && r.sched.cnt == 0

/-- `filt_start = token[0] and acq_done` (R293). -/
def filtStart (r : Regs c) : Bool := r.sched.token0 && r.acqDone

/-- `out_start = token[1] and shift_entry` (R294). -/
def outStart (r : Regs c) : Bool := r.sched.token1 && r.shiftEntry

/-! ## Halt -/

/-- `halted = (FAULTS ≠ ∅)` (R50, R367). -/
def halted (r : Regs c) : Bool := !r.faults.isEmpty

end Sys2Proof.Machine.Regs
end

