-- ==== Sys2Proof/Machine/Operands.lean ====
section
/-! DEFINITION. Operand forms: the fields of a coefficient word and of `cfg` (30_encoding.md rules
R110 to R114), the operands of the multiply-accumulate unit and its arithmetic (41_filter_engine.md
rules R197, R208, R210, R211, R213, R215, R217), the output frame and its bits (30_encoding.md
rules R120, R121) and the ADC lane word (R122). -/

namespace Sys2Proof.Machine

/-! ## Coefficient words and fields -/

/-- One half of a `CM` word `{hi, lo}`: `cm_half = 1` the high half, `0` the low one (R83, R110). -/
def halfOf {k : Nat} (word : BitVec (k + k)) (high : Bool) : BitVec k :=
  if high then word.extractLsb' k k else word.extractLsb' 0 k

/-- `fld(f) = CX[idx >> 1]` half `idx & 1` (R206). -/
def Regs.fld {c : Config} (r : Regs c) (f : CoeffField) : BitVec c.K :=
  halfOf (r.filt.cx[wordOf (c.idx f) % 4]'(Nat.mod_lt _ (by decide))) (isHigh (c.idx f))

/-- `sel[C-1:0]` of a `cfg` field: the ADC channel that feeds the filter (R114, R207). -/
def cfgSel (c : Config) (v : BitVec c.K) : BitVec c.C := v.extractLsb' 0 c.C

/-- `cfg[15:8]`, the delay-gate threshold (R114, R213). -/
def cfgDelay (c : Config) (v : BitVec c.K) : BitVec delayWidth := v.extractLsb' 8 delayWidth

/-- The low `WD` bits of `ftw0`, `ftw1` or `pow`: all that reaches the output word (R113, R217). -/
def outField (c : Config) (v : BitVec c.K) : BitVec c.WD := v.extractLsb' 0 c.WD

/-! ## Operands and arithmetic of the multiply-accumulate unit -/

/-- `widen_x(s) = trunc_S(sext_S(s) << X_ALIGN)` (R197). -/
def widenX (c : Config) (s : BitVec c.W) : BitVec c.S := sext c.S s <<< c.xAlign

/-- `off' = sval(trunc_S(sext_S(offset) << OFFSET_ALIGN))` (R208). -/
def widenOffset (c : Config) (o : BitVec c.K) : Int := sval (sext c.S o <<< c.offsetAlign)

/-- One accumulation, `trunc_A(sval(acc) + (d - sval(a))·sval(b))`, the product exact (R209, R210). -/
def mac (c : Config) (acc : BitVec c.A) (d : Int) (a : BitVec c.S) (b : BitVec c.K) : BitVec c.A :=
  trunc c.A (sval acc + (d - sval a) * sval b)

/-- The largest value an output takes, `2^(S-1) - 1` (R211). -/
def clipMax (c : Config) : Int := ((2 ^ (c.S - 1) : Nat) : Int) - 1

/-- `clip(sum) = clamp(sval(sum) >> SH, 0, 2^(S-1) - 1)` as an `S`-bit value, `>>` the floor shift
(R211). -/
def clip (c : Config) (sum : BitVec c.A) : BitVec c.S :=
  trunc c.S (clampInt (sval sum >>> c.SH) 0 (clipMax c))

/-- The `clip` indication: `sval(sum) >> SH` lies outside `[0, 2^(S-1) - 1]` (R211). -/
def clips (c : Config) (sum : BitVec c.A) : Bool :=
  decide (sval sum >>> c.SH < 0) || decide (clipMax c < sval sum >>> c.SH)

/-- `gate = en_iir ∧ en_out ∧ (dly ≥ delay)` (R213). -/
def gateOpen {c : Config} (lat : ChanCtl c) (dly delay : BitVec delayWidth) : Bool :=
  lat.enIir && lat.enOut && decide (delay.toNat ≤ dly.toNat)

/-- `next_dly` (R215). -/
def nextDly (enOut : Bool) (dly delay : BitVec delayWidth) : BitVec delayWidth :=
  if enOut then if dly.toNat < delay.toNat then dly + 1 else dly else 0

/-- `y_out[S-2 : S-1-asf]`, the amplitude (R217). -/
def amplitude (c : Config) (y : BitVec c.S) : BitVec c.ASF := y.extractLsb' (c.S - 1 - c.ASF) c.ASF

/-! ## Output frame -/

/-- `frame = {CMD_BYTE, zext_WD(asf), pow, ftw1, ftw0}`, of `OW = 4·WD + 8` bits (R120, R261). -/
def frame (c : Config) (o : OutWord c) : BitVec c.OW :=
  (c.cmdByte ++ zext c.WD o.asf ++ o.pow ++ o.ftw1 ++ o.ftw0).setWidth c.OW

/-- The bits of a frame in the order they leave on the link: bit `OW - 1` first (R121, R265). -/
def linkBits {w : Nat} (fr : BitVec w) : List Bool := (List.range w).map fun i => fr.getLsbD (w - 1 - i)

/-! ## ADC lane word -/

/-- `LW_l`: the bits of one lane in arrival order, the first most significant (R122, R160). -/
def laneWord (bits : List Bool) : Nat := bits.foldl (fun n b => 2 * n + b.toNat) 0

/-- `sample[ch]` from the lane words (R122): with `Kl = N_ch/lanes` channels a lane, channel
`l·Kl + k` is the `k`-th transmitted field of lane `l`,
`LW_l[(Kl-k)·width-1 : (Kl-1-k)·width]`. -/
def laneSample (c : Config) (lanes : List (List Bool)) (ch : Nat) : BitVec c.W :=
  let kl := c.nCh / c.acq.lanes
  BitVec.ofNat c.W (laneWord (lanes.getD (ch / kl) []) / 2 ^ ((kl - 1 - ch % kl) * c.W))

end Sys2Proof.Machine
end

