-- ==== Sys2Proof/Machine/Acquisition.lean ====
section
/-! DEFINITION. The acquisition micro-operations (40_acquisition.md rules R151 to R158). Each reads
the registers as they stand at the start of the tick and answers the state after a tick in which it
alone acts. -/

namespace Sys2Proof.Machine
namespace Regs

variable {c : Config}

/-- "if acq_start: raise F_START_BUSY_ACQ(tick)", the start not taken (R153 to R156, R374). -/
def acqBusyStart (r : Regs c) : Regs c :=
  if r.acqStart then r.raise .startBusyAcq .none else r

/-- A timed state's tick: count down, or on 0 load the next state's countdown and go there (R151). -/
def acqCount (r : Regs c) (load : Nat) (next : AcqState) : Regs c :=
  let n := r.acqBusyStart
  if r.acq.cnt = 0 then { n with acq := { r.acq with state := next, cnt := load } }
  else { n with acq := { r.acq with cnt := r.acq.cnt - 1 } }

/-- `sample[ch]` of this tick: what the environment drives, else its free draw (R52, R158; log
entry 11). -/
def sampleOf (r : Regs c) (ch : Fin c.nCh) : BitVec c.W :=
  match r.inp.samples[ch] with
  | some v => v
  | none => Config.freeSample c.W r.draws ch.val

/-- `ACQ_IDLE` (R152). -/
def doAcqIdle (r : Regs c) : Regs c :=
  if r.acqStart then { r with acq := { r.acq with state := .cnvh, cnt := c.acq.tCnvh - 1 } } else r

/-- `ACQ_RTT` (R156): on 0 the samples arrive and the acquisition is done. -/
def doAcqRtt (r : Regs c) : Regs c :=
  let n := r.acqBusyStart
  if r.acq.cnt = 0 then
    { n with
      acq := { r.acq with state := .idle, data := Vector.ofFn fun ch => r.sampleOf ch }
      draws := r.draws + 1 }
  else { n with acq := { r.acq with cnt := r.acq.cnt - 1 } }

end Regs

/-- `ACQ_IDLE` (R152). -/
def execAcqIdle (s : State) : Host.Outcome State Fault Refusal :=
  nextWith s s.regs.doAcqIdle

/-- `ACQ_CNVH`: lasts `t_cnvh` ticks, loads `t_conv - 2` (R153). -/
def execAcqCnvh (s : State) : Host.Outcome State Fault Refusal :=
  nextWith s (s.regs.acqCount (s.cfg.acq.tConv - 2) .conv)

/-- `ACQ_CONV`: lasts `t_conv - 1` ticks, loads `t_read - 1` (R154). -/
def execAcqConv (s : State) : Host.Outcome State Fault Refusal :=
  nextWith s (s.regs.acqCount (s.cfg.tRead - 1) .read)

/-- `ACQ_READ`: lasts `t_read` ticks, loads `t_rtt - 1` (R155). -/
def execAcqRead (s : State) : Host.Outcome State Fault Refusal :=
  nextWith s (s.regs.acqCount (s.cfg.acq.tRtt - 1) .rtt)

/-- `ACQ_RTT` (R156). -/
def execAcqRtt (s : State) : Host.Outcome State Fault Refusal :=
  nextWith s s.regs.doAcqRtt

end Sys2Proof.Machine
end

