-- ==== Sys2Proof/Machine/Filter.lean ====
section
/-! DEFINITION. The FilterEngine's micro-operations (41_filter_engine.md). A micro-operation reads
the registers as they stand at the start of the tick (its first argument, `r`) and collects its
updates in a second one, `n`, that starts out equal to it: "Every right-hand side reads the
registers as they stand at the start of the tick" (R209). -/

namespace Sys2Proof.Machine
namespace Regs

variable {c : Config}

/-! ## Walking (R192, R193) -/

/-- The channel of a LOAD or SHIFT tick, `f_k >> 1` (R37). -/
def walkChan (r : Regs c) : Fin c.nCh := chanOf c (r.filt.k / 2)

/-- The slot of a PROCESS tick, `f_k >> 2` (R205). -/
def slot (r : Regs c) : Nat := r.filt.k / 4

/-- The phase `φ = f_k & 3` (R205). -/
def phase (r : Regs c) : Nat := r.filt.k % 4

/-- The channel fetched in slot `s < N_ch` (R205). -/
def fetchChan (r : Regs c) : Fin c.nCh := chanOf c r.slot

/-- The channel computed in slot `s ≥ 1`, `c = s - 1` (R205). -/
def calcChan (r : Regs c) : Fin c.nCh := chanOf c (r.slot - 1)

/-- The slot fetches (R205: slot `N_ch` only computes). -/
def fetches (r : Regs c) : Bool := decide (r.slot < c.nCh)

/-- The slot computes (R205: slot 0 only fetches). -/
def calculates (r : Regs c) : Bool := decide (1 ≤ r.slot)

/-- "`filt_start` in a tick with `f_state ≠ IDLE` raises `F_START_BUSY_IIR` and the start is not
taken" (R194, R374). -/
def filtBusyStart (r : Regs c) : Regs c :=
  if r.filtStart then r.raise .startBusyIir .none else r

/-- The transition of a walking state (R193): after its last tick `last`, go to `next` with `f_k`
cleared, else count. -/
def walk (r n : Regs c) (last : Nat) (next : FState) : Regs c :=
  { n with filt := { n.filt with
      state := if r.filt.k = last then next else r.filt.state
      k := if r.filt.k = last then 0 else r.filt.k + 1 } }

/-- LOAD's transition (R193). -/
def walkLoad (r n : Regs c) : Regs c := r.walk n (2 * c.nCh - 1) .process

/-- PROCESS's transition (R193). -/
def walkProcess (r n : Regs c) : Regs c := r.walk n (4 * c.nCh + 3) .shift

/-- SHIFT's transition (R193). -/
def walkShift (r n : Regs c) : Regs c := r.walk n (2 * c.nCh - 1) .idle

/-! ## Reads through the engine's ports -/

/-- `SD <- StRead(addr)`; a read of a never-written word raises `F_UNINIT_READ` and loads nothing
(R366, R375; log entry 15). -/
def loadSd (r n : Regs c) (addr : Nat) : Regs c :=
  match r.stRead addr with
  | some v => { n with filt := { n.filt with sd := v } }
  | none => n.raise .uninitRead (.mem .sm addr)

/-- The word address the fetch of word `φ` reads: `cm_addr(s, LAT[s].profile, φ)` (R206). -/
def fetchAddr (r : Regs c) (word : Nat) : Nat :=
  cmAddr c r.fetchChan.val r.filt.lat[r.fetchChan].profile.toNat word

/-- Phases 0, 1, 2 of the fetch: `CQ[φ] <- CoefRead(cm_addr(s, q, φ))` (R206). -/
def fetch (r n : Regs c) (word : Fin 4) : Regs c :=
  if r.fetches then
    match r.coefRead (r.fetchAddr word.val) with
    | some v => { n with filt := { n.filt with cq := n.filt.cq.set word.val v } }
    | none => n.raise .uninitRead (.mem .cm (r.fetchAddr word.val))
  else n

/-- Phase 3 of the fetch: `CX <- {CQ[0], CQ[1], CQ[2], CoefRead(cm_addr(s, q, 3))}` (R206). A read
that raises a fault returns no value, and then `CX` is not loaded (R366; log entry 15). -/
def fetchLast (r n : Regs c) : Regs c :=
  if r.fetches then
    match r.coefRead (r.fetchAddr 3) with
    | some v => { n with filt := { n.filt with cx := r.filt.cq.set 3 v } }
    | none => n.raise .uninitRead (.mem .cm (r.fetchAddr 3))
  else n

/-! ## The computed channel (R207 to R217) -/

/-- `p = LAT[c].profile` of the computed channel. -/
def calcProf (r : Regs c) : BitVec c.P := r.filt.lat[r.calcChan].profile

/-- `sm_y1(c, p)` of the computed channel. -/
def calcY1 (r : Regs c) : Nat := smY1 c r.calcChan.val r.calcProf.toNat

/-- `sel = fld(cfg)[C-1:0]` (R207). -/
def calcSel (r : Regs c) : Nat := (cfgSel c (r.fld .cfg)).toNat

/-- `delay = fld(cfg)[15:8]` (R213). -/
def calcDelay (r : Regs c) : BitVec delayWidth := cfgDelay c (r.fld .cfg)

/-- `off'` (R208). -/
def calcOffset (r : Regs c) : Int := widenOffset c (r.fld .offset)

/-- The gate of the computed channel, on `dly[c]` before this tick's update (R213). -/
def gate (r : Regs c) : Bool :=
  gateOpen r.filt.lat[r.calcChan] r.filt.dly[r.calcChan] r.calcDelay

/-- `sum` of phase 3 (R209). -/
def calcSum (r : Regs c) : BitVec c.A := mac c r.filt.acc r.calcOffset r.filt.sd (r.fld .b1)

/-- `y = clip(sum)` (R209, R211). -/
def calcY (r : Regs c) : BitVec c.S := clip c r.calcSum

/-- `y_out = gate ? y : YO` (R209, R216). -/
def calcOut (r : Regs c) : BitVec c.S := if r.gate then r.calcY else r.filt.yo

/-- The entry phase 3 writes to `OB[c]` (R217). -/
def calcWord (r : Regs c) : OutWord c :=
  { ftw0 := outField c (r.fld .ftw0)
    ftw1 := outField c (r.fld .ftw1)
    pow := outField c (r.fld .pow)
    asf := amplitude c r.calcOut }

/-- Phase 0: old-y-read, accumulator cleared (R207, R209). -/
def calcP0 (r n : Regs c) : Regs c :=
  if r.calculates then
    let n := r.loadSd n r.calcY1
    { n with filt := { n.filt with acc := 0 } }
  else n

/-- Phase 1: fresh-x0-read, the y term (R207, R209). -/
def calcP1 (r n : Regs c) : Regs c :=
  if r.calculates then
    let n := r.loadSd n (smX0 c r.calcSel)
    { n with filt := { n.filt with
        yo := r.filt.sd
        acc := mac c r.filt.acc 0 r.filt.sd (r.fld .a1) } }
  else n

/-- Phase 2: aged-x1-read, the x0 term (R207, R209). -/
def calcP2 (r n : Regs c) : Regs c :=
  if r.calculates then
    let n := r.loadSd n (smX1 c r.calcSel)
    { n with filt := { n.filt with
        acc := mac c r.filt.acc r.calcOffset r.filt.sd (r.fld .b0) } }
  else n

/-- Phase 3: the x1 term, shift and saturate, gated write-back, output buffer, delay counter (R209,
R211, R213 to R217), and the `clip` indication as an output of the tick (R53). -/
def calcP3 (r n : Regs c) : Regs c :=
  if r.calculates then
    let n := if r.gate then n.stWrite r.calcY1 r.calcY else n
    { n with
      filt := { n.filt with
        acc := r.calcSum
        ob := n.filt.ob.set r.calcChan r.calcWord
        dly := n.filt.dly.set r.calcChan
          (nextDly r.filt.lat[r.calcChan].enOut r.filt.dly[r.calcChan] r.calcDelay) }
      outs := { n.outs with clip := some (clips c r.calcSum) } }
  else n

/-- The engine writes `SM` in this tick: `LOAD_WR`, `SHIFT_WR`, or `PROC_P3` with the gate open
(R88, R328, R372). -/
def engineWritesSm (r : Regs c) : Bool :=
  match r.filt.state with
  | .idle => false
  | .load => r.filt.k % 2 == 1
  | .process => r.phase == 3 && r.calculates && r.gate
  | .shift => r.filt.k % 2 == 1

/-! ## The micro-operations -/

/-- `IDLE_WAIT` (R195), with the start acceptance of R196. -/
def doIdleWait (r : Regs c) : Regs c :=
  if r.filtStart then { r with filt := { r.filt with state := .load, k := 0, lat := r.ctrl } } else r

/-- `LOAD_SX` (R199). -/
def doLoadSx (r : Regs c) : Regs c :=
  let n := r.filtBusyStart
  let n := if r.reading then n.raise .adcDataInvalid (.chan r.walkChan.val)
    else { n with filt := { n.filt with sx := widenX c r.acq.data[r.walkChan] } }
  r.walkLoad n

/-- `LOAD_WR` (R199). -/
def doLoadWr (r : Regs c) : Regs c :=
  r.walkLoad (r.filtBusyStart.stWrite (smX0 c r.walkChan.val) r.filt.sx)

/-- `PROC_P0` (R206, R209). -/
def doProcP0 (r : Regs c) : Regs c := r.walkProcess (r.calcP0 (r.fetch r.filtBusyStart 0))

/-- `PROC_P1` (R206, R209). -/
def doProcP1 (r : Regs c) : Regs c := r.walkProcess (r.calcP1 (r.fetch r.filtBusyStart 1))

/-- `PROC_P2` (R206, R209). -/
def doProcP2 (r : Regs c) : Regs c := r.walkProcess (r.calcP2 (r.fetch r.filtBusyStart 2))

/-- `PROC_P3` (R206, R209). -/
def doProcP3 (r : Regs c) : Regs c := r.walkProcess (r.calcP3 (r.fetchLast r.filtBusyStart))

/-- `SHIFT_RD` (R222). -/
def doShiftRd (r : Regs c) : Regs c := r.walkShift (r.loadSd r.filtBusyStart (smX0 c r.walkChan.val))

/-- `SHIFT_WR` (R222). -/
def doShiftWr (r : Regs c) : Regs c :=
  r.walkShift (r.filtBusyStart.stWrite (smX1 c r.walkChan.val) r.filt.sd)

end Regs

/-- `IDLE_WAIT` (R195, R196). -/
def execIdleWait (s : State) : Host.Outcome State Fault Refusal := nextWith s s.regs.doIdleWait

/-- `LOAD_SX` (R199). -/
def execLoadSx (s : State) : Host.Outcome State Fault Refusal := nextWith s s.regs.doLoadSx

/-- `LOAD_WR` (R199). -/
def execLoadWr (s : State) : Host.Outcome State Fault Refusal := nextWith s s.regs.doLoadWr

/-- `PROC_P0` (R206, R209). -/
def execProcP0 (s : State) : Host.Outcome State Fault Refusal := nextWith s s.regs.doProcP0

/-- `PROC_P1` (R206, R209). -/
def execProcP1 (s : State) : Host.Outcome State Fault Refusal := nextWith s s.regs.doProcP1

/-- `PROC_P2` (R206, R209). -/
def execProcP2 (s : State) : Host.Outcome State Fault Refusal := nextWith s s.regs.doProcP2

/-- `PROC_P3` (R206, R209). -/
def execProcP3 (s : State) : Host.Outcome State Fault Refusal := nextWith s s.regs.doProcP3

/-- `SHIFT_RD` (R222). -/
def execShiftRd (s : State) : Host.Outcome State Fault Refusal := nextWith s s.regs.doShiftRd

/-- `SHIFT_WR` (R222). -/
def execShiftWr (s : State) : Host.Outcome State Fault Refusal := nextWith s s.regs.doShiftWr

end Sys2Proof.Machine
end

