-- ==== Sys2Proof/Machine/HostOps.lean ====
section
/-! DEFINITION. The host operations (44_host_interface.md). Each is checked in the order of
60_exceptions.md rule R379: operands in range, then the operation's contract, then undefined
memory; only the first failing check is raised. A read returns the value committed at the end of
the previous tick (R320). -/

namespace Sys2Proof.Machine

/-- The state word exists: its channel and, for y1, its profile are in range (R328). -/
def refOk (c : Config) : StateRef → Bool
  | .y1 ch prof => decide (ch < c.nCh) && decide (prof < 2 ^ c.P)
  | .x0 ch => decide (ch < c.nCh)
  | .x1 ch => decide (ch < c.nCh)

/-! ## Calls by name -/

/-- The name of a coefficient field (R321, 30_encoding.md rule R111). -/
def fieldName : CoeffField → List Char
  | .ftw1 => ['f', 't', 'w', '1']
  | .b1 => ['b', '1']
  | .pow => ['p', 'o', 'w']
  | .cfg => ['c', 'f', 'g']
  | .offset => ['o', 'f', 'f', 's', 'e', 't']
  | .a1 => ['a', '1']
  | .ftw0 => ['f', 't', 'w', '0']
  | .b0 => ['b', '0']

/-- The field a name names, if it is one of R321's eight. -/
def fieldOfName (name : List Char) : Option CoeffField :=
  [CoeffField.ftw1, .b1, .pow, .cfg, .offset, .a1, .ftw0, .b0].find? fun f => fieldName f == name

/-- The state word a kind names, if it is one of R321's three and the profile is given for `y1` and
for no other kind (R328 "`profile_or_none`"; log entry 14). -/
def refOfKind (ch : Nat) (prof : Option Nat) (kind : List Char) : Option StateRef :=
  if kind = ['y', '1'] then prof.map (.y1 ch)
  else if kind = ['x', '0'] then (if prof = none then some (.x0 ch) else none)
  else if kind = ['x', '1'] then (if prof = none then some (.x1 ch) else none)
  else none

/-- The host call a named call is; none where its field name, or its kind with its profile, is out of
range (R376). -/
def resolveCall : NamedCall → Option HostCall
  | .setCoeff ch prof name v => (fieldOfName name).map fun f => .setCoeff ch prof f v
  | .getCoeff ch prof name => (fieldOfName name).map fun f => .getCoeff ch prof f
  | .setState ch prof kind v => (refOfKind ch prof kind).map fun w => .setState w v
  | .getState ch prof kind => (refOfKind ch prof kind).map fun w => .getState w

namespace Regs

variable {c : Config}

/-- An operation with an operand outside its range (R90, R376). -/
def badOp (r : Regs c) (op ch prof kind : Nat) : Regs c :=
  r.raise .hostBadOp (.selector (selectorNumber c op ch prof kind))

/-- Put the host read data of the tick out (R321). -/
def putHrd (r : Regs c) (d : Option (HostData c)) : Regs c := { r with outs := { r.outs with hrd := d } }

/-- A get whose read returns no value (R366, R375). -/
def noHrd (r : Regs c) (code : FaultCode) (info : FaultInfo) : Regs c := (r.raise code info).putHrd none

/-- The word address of field `f` (R82). -/
def coeffAddr (c : Config) (ch prof : Nat) (f : CoeffField) : Nat :=
  cmAddr c ch prof (wordOf (c.idx f))

/-- `f_state = PROCESS and p = LAT[c].profile`: the pair the sweep reads (R370). -/
def pairActive (r : Regs c) (ch : Fin c.nCh) (prof : Nat) : Bool :=
  r.processing && prof == r.filt.lat[ch].profile.toNat

/-- `set_coefficient(c, p, f, v)` (R322). -/
def setCoeff (r : Regs c) (f : CoeffField) (ch prof : Nat) (v : Int) : Regs c :=
  if h : ch < c.nCh ∧ prof < 2 ^ c.P then
    if r.pairActive ⟨ch, h.1⟩ prof then r.raise .coeffWriteActive (.coeff ch prof f)
    else r.cmWriteHalf (coeffAddr c ch prof f) (isHigh (c.idx f)) (trunc c.K v)
  else r.badOp 0 ch prof (c.idx f).toNat

/-- `get_coefficient(c, p, f)` (R323). -/
def getCoeff (r : Regs c) (f : CoeffField) (ch prof : Nat) : Regs c :=
  if ch < c.nCh ∧ prof < 2 ^ c.P then
    match r.cmHalf (coeffAddr c ch prof f) (isHigh (c.idx f)) with
    | some v => r.putHrd (some (.coeff v))
    | none => r.noHrd .uninitRead (.mem .cm (coeffAddr c ch prof f))
  else (r.badOp 1 ch prof (c.idx f).toNat).putHrd none

/-- An operation `op` on a state word that does not exist (R376). -/
def badRef (r : Regs c) (op : Nat) : StateRef → Regs c
  | .y1 ch prof => r.badOp op ch prof 0
  | .x0 ch => r.badOp op ch 0 1
  | .x1 ch => r.badOp op ch 0 2

/-- `set_state(c, p, kind, v)` (R328). -/
def setState (r : Regs c) (w : StateRef) (v : Int) : Regs c :=
  if refOk c w then
    if r.engineWritesSm then r.raise .stateWriteConflict (.state w)
    else r.stWrite (smAddr c w) (trunc c.S v)
  else r.badRef 2 w

/-- `get_state(c, p, kind)` (R329). -/
def getState (r : Regs c) (w : StateRef) : Regs c :=
  if refOk c w then
    if r.loading || r.shifting then r.noHrd .stateReadBusy (.state w)
    else
      match r.stRead (smAddr c w) with
      | some v => r.putHrd (some (.state v))
      | none => r.noHrd .uninitRead (.mem .sm (smAddr c w))
  else (r.badRef 3 w).putHrd none

/-- `set_ctrl(c, profile, en_out, en_iir)` (R335). -/
def setCtrl (r : Regs c) (ch prof : Nat) (enOut enIir : Bool) : Regs c :=
  if h : ch < c.nCh ∧ prof < 2 ^ c.P then
    if r.fDone then
      { r with
        ctrl := r.ctrl.set ch (ChanCtl.mk (BitVec.ofNat c.P prof) enOut enIir) h.1 }
    else r.raise .ctrlWriteBusy (.chan ch)
  else r.badOp 4 ch prof (ctrlKind enOut enIir).toNat

end Regs

/-- `set_coefficient` of field `ftw1` (R322). -/
def execSetCoeffFtw1 (ch prof : Nat) (v : Int) (s : State) : Host.Outcome State Fault Refusal :=
  nextWith s (s.regs.setCoeff .ftw1 ch prof v)

/-- `set_coefficient` of field `b1` (R322). -/
def execSetCoeffB1 (ch prof : Nat) (v : Int) (s : State) : Host.Outcome State Fault Refusal :=
  nextWith s (s.regs.setCoeff .b1 ch prof v)

/-- `set_coefficient` of field `pow` (R322). -/
def execSetCoeffPow (ch prof : Nat) (v : Int) (s : State) : Host.Outcome State Fault Refusal :=
  nextWith s (s.regs.setCoeff .pow ch prof v)

/-- `set_coefficient` of field `cfg` (R322). -/
def execSetCoeffCfg (ch prof : Nat) (v : Int) (s : State) : Host.Outcome State Fault Refusal :=
  nextWith s (s.regs.setCoeff .cfg ch prof v)

/-- `set_coefficient` of field `offset` (R322). -/
def execSetCoeffOffset (ch prof : Nat) (v : Int) (s : State) : Host.Outcome State Fault Refusal :=
  nextWith s (s.regs.setCoeff .offset ch prof v)

/-- `set_coefficient` of field `a1` (R322). -/
def execSetCoeffA1 (ch prof : Nat) (v : Int) (s : State) : Host.Outcome State Fault Refusal :=
  nextWith s (s.regs.setCoeff .a1 ch prof v)

/-- `set_coefficient` of field `ftw0` (R322). -/
def execSetCoeffFtw0 (ch prof : Nat) (v : Int) (s : State) : Host.Outcome State Fault Refusal :=
  nextWith s (s.regs.setCoeff .ftw0 ch prof v)

/-- `set_coefficient` of field `b0` (R322). -/
def execSetCoeffB0 (ch prof : Nat) (v : Int) (s : State) : Host.Outcome State Fault Refusal :=
  nextWith s (s.regs.setCoeff .b0 ch prof v)

/-- `get_coefficient` of field `ftw1` (R323). -/
def execGetCoeffFtw1 (ch prof : Nat) (s : State) : Host.Outcome State Fault Refusal :=
  nextWith s (s.regs.getCoeff .ftw1 ch prof)

/-- `get_coefficient` of field `b1` (R323). -/
def execGetCoeffB1 (ch prof : Nat) (s : State) : Host.Outcome State Fault Refusal :=
  nextWith s (s.regs.getCoeff .b1 ch prof)

/-- `get_coefficient` of field `pow` (R323). -/
def execGetCoeffPow (ch prof : Nat) (s : State) : Host.Outcome State Fault Refusal :=
  nextWith s (s.regs.getCoeff .pow ch prof)

/-- `get_coefficient` of field `cfg` (R323). -/
def execGetCoeffCfg (ch prof : Nat) (s : State) : Host.Outcome State Fault Refusal :=
  nextWith s (s.regs.getCoeff .cfg ch prof)

/-- `get_coefficient` of field `offset` (R323). -/
def execGetCoeffOffset (ch prof : Nat) (s : State) : Host.Outcome State Fault Refusal :=
  nextWith s (s.regs.getCoeff .offset ch prof)

/-- `get_coefficient` of field `a1` (R323). -/
def execGetCoeffA1 (ch prof : Nat) (s : State) : Host.Outcome State Fault Refusal :=
  nextWith s (s.regs.getCoeff .a1 ch prof)

/-- `get_coefficient` of field `ftw0` (R323). -/
def execGetCoeffFtw0 (ch prof : Nat) (s : State) : Host.Outcome State Fault Refusal :=
  nextWith s (s.regs.getCoeff .ftw0 ch prof)

/-- `get_coefficient` of field `b0` (R323). -/
def execGetCoeffB0 (ch prof : Nat) (s : State) : Host.Outcome State Fault Refusal :=
  nextWith s (s.regs.getCoeff .b0 ch prof)

/-- `set_state` of `y1` (R328). -/
def execSetStateY1 (ch prof : Nat) (v : Int) (s : State) : Host.Outcome State Fault Refusal :=
  nextWith s (s.regs.setState (.y1 ch prof) v)

/-- `set_state` of `x0` (R328). -/
def execSetStateX0 (ch : Nat) (v : Int) (s : State) : Host.Outcome State Fault Refusal :=
  nextWith s (s.regs.setState (.x0 ch) v)

/-- `set_state` of `x1` (R328). -/
def execSetStateX1 (ch : Nat) (v : Int) (s : State) : Host.Outcome State Fault Refusal :=
  nextWith s (s.regs.setState (.x1 ch) v)

/-- `get_state` of `y1` (R329). -/
def execGetStateY1 (ch prof : Nat) (s : State) : Host.Outcome State Fault Refusal :=
  nextWith s (s.regs.getState (.y1 ch prof))

/-- `get_state` of `x0` (R329). -/
def execGetStateX0 (ch : Nat) (s : State) : Host.Outcome State Fault Refusal :=
  nextWith s (s.regs.getState (.x0 ch))

/-- `get_state` of `x1` (R329). -/
def execGetStateX1 (ch : Nat) (s : State) : Host.Outcome State Fault Refusal :=
  nextWith s (s.regs.getState (.x1 ch))

/-- `set_ctrl` (R335). -/
def execSetCtrl (ch prof : Nat) (enOut enIir : Bool) (s : State) : Host.Outcome State Fault Refusal :=
  nextWith s (s.regs.setCtrl ch prof enOut enIir)

end Sys2Proof.Machine
end

