-- ==== Sys2Proof/Machine/Output.lean ====
section
/-! DEFINITION. The output micro-operations (42_output_assembler.md rules R260 to R268). -/

namespace Sys2Proof.Machine
namespace Regs

variable {c : Config}

/-- Every tick of the output stage: the delay line takes `o_done` (R266), and the strobe (R268) and
the delivery of the frames (R265) are put out. -/
def outTick (r n : Regs c) : Regs c :=
  { n with
    out := { n.out with dl := (r.out.dl ++ BitVec.ofBool r.oDone).setWidth (c.updDelay + 1) }
    outs := { n.outs with
      ioUpdate := r.ioUpdate
      delivered := if r.oDoneRises then some r.out.fr else none } }

/-- `OUT_START`: a start latches every channel's frame (R262). -/
def doOutStart (r : Regs c) : Regs c :=
  r.outTick
    (if r.outStart then
      { r with out := { r.out with
          fr := Vector.ofFn fun ch => frame c r.filt.ob[ch]
          busy := true
          cnt := c.tOutput - 2 } }
    else r)

/-- `OUT_BUSY`: a start is refused by a recorded fault, and the countdown runs (R263). -/
def doOutBusy (r : Regs c) : Regs c :=
  let n := if r.outStart then r.raise .startBusyOut .none else r
  r.outTick
    (if r.out.cnt = 0 then { n with out := { r.out with busy := false } }
    else { n with out := { r.out with cnt := r.out.cnt - 1 } })

end Regs

/-- `OUT_START` (R262). -/
def execOutStart (s : State) : Host.Outcome State Fault Refusal := nextWith s s.regs.doOutStart

/-- `OUT_BUSY` (R263). -/
def execOutBusy (s : State) : Host.Outcome State Fault Refusal := nextWith s s.regs.doOutBusy

end Sys2Proof.Machine
end

