-- ==== Sys2Proof/Machine/Dispatch.lean ====
section
/-! DEFINITION. Which meaning an instruction has: one arm per constructor of `Instr`. -/

namespace Sys2Proof.Machine

/-- The meaning of an instruction: the state after a tick in which it alone acts. `Tick.lean` runs the
operations of one tick together. -/
def exec (i : Instr) (s : State) : Host.Outcome State Fault Refusal :=
  match i with
  | .setCoeffFtw1 ch prof v => Sys2Proof.Machine.execSetCoeffFtw1 ch prof v s
  | .setCoeffB1 ch prof v => Sys2Proof.Machine.execSetCoeffB1 ch prof v s
  | .setCoeffPow ch prof v => Sys2Proof.Machine.execSetCoeffPow ch prof v s
  | .setCoeffCfg ch prof v => Sys2Proof.Machine.execSetCoeffCfg ch prof v s
  | .setCoeffOffset ch prof v => Sys2Proof.Machine.execSetCoeffOffset ch prof v s
  | .setCoeffA1 ch prof v => Sys2Proof.Machine.execSetCoeffA1 ch prof v s
  | .setCoeffFtw0 ch prof v => Sys2Proof.Machine.execSetCoeffFtw0 ch prof v s
  | .setCoeffB0 ch prof v => Sys2Proof.Machine.execSetCoeffB0 ch prof v s
  | .getCoeffFtw1 ch prof => Sys2Proof.Machine.execGetCoeffFtw1 ch prof s
  | .getCoeffB1 ch prof => Sys2Proof.Machine.execGetCoeffB1 ch prof s
  | .getCoeffPow ch prof => Sys2Proof.Machine.execGetCoeffPow ch prof s
  | .getCoeffCfg ch prof => Sys2Proof.Machine.execGetCoeffCfg ch prof s
  | .getCoeffOffset ch prof => Sys2Proof.Machine.execGetCoeffOffset ch prof s
  | .getCoeffA1 ch prof => Sys2Proof.Machine.execGetCoeffA1 ch prof s
  | .getCoeffFtw0 ch prof => Sys2Proof.Machine.execGetCoeffFtw0 ch prof s
  | .getCoeffB0 ch prof => Sys2Proof.Machine.execGetCoeffB0 ch prof s
  | .setStateY1 ch prof v => Sys2Proof.Machine.execSetStateY1 ch prof v s
  | .setStateX0 ch v => Sys2Proof.Machine.execSetStateX0 ch v s
  | .setStateX1 ch v => Sys2Proof.Machine.execSetStateX1 ch v s
  | .getStateY1 ch prof => Sys2Proof.Machine.execGetStateY1 ch prof s
  | .getStateX0 ch => Sys2Proof.Machine.execGetStateX0 ch s
  | .getStateX1 ch => Sys2Proof.Machine.execGetStateX1 ch s
  | .setCtrl ch prof enOut enIir => Sys2Proof.Machine.execSetCtrl ch prof enOut enIir s
  | .idleWait => Sys2Proof.Machine.execIdleWait s
  | .loadSx => Sys2Proof.Machine.execLoadSx s
  | .loadWr => Sys2Proof.Machine.execLoadWr s
  | .procP0 => Sys2Proof.Machine.execProcP0 s
  | .procP1 => Sys2Proof.Machine.execProcP1 s
  | .procP2 => Sys2Proof.Machine.execProcP2 s
  | .procP3 => Sys2Proof.Machine.execProcP3 s
  | .shiftRd => Sys2Proof.Machine.execShiftRd s
  | .shiftWr => Sys2Proof.Machine.execShiftWr s
  | .acqIdle => Sys2Proof.Machine.execAcqIdle s
  | .acqCnvh => Sys2Proof.Machine.execAcqCnvh s
  | .acqConv => Sys2Proof.Machine.execAcqConv s
  | .acqRead => Sys2Proof.Machine.execAcqRead s
  | .acqRtt => Sys2Proof.Machine.execAcqRtt s
  | .outStart => Sys2Proof.Machine.execOutStart s
  | .outBusy => Sys2Proof.Machine.execOutBusy s

end Sys2Proof.Machine
end

