-- ==== Sys2Proof/Machine/Scheduler.lean ====
section
/-! DEFINITION. The CycleScheduler's registers after a tick (43_scheduler.md rules R292, R295). -/

namespace Sys2Proof.Machine.Regs

variable {c : Config}

/-- The counter's and the token's update; the right-hand sides read start-of-tick values. -/
def schedule (r : Regs c) : SchedRegs :=
  { cnt := if r.sched.cnt = 0 then c.tCycle - 1 else r.sched.cnt - 1
    token0 := if r.acqStart then true else if r.filtStart then false else r.sched.token0
    token1 := if r.filtStart then r.sched.token0 else if r.outStart then false else r.sched.token1 }

end Sys2Proof.Machine.Regs
end

