-- ==== Sys2Proof/Machine/Tick.lean ====
section
/-! DEFINITION. One tick of the CORE. Every tick runs, on the state at its start, the host operation
of the tick (44_host_interface.md rule R320), one micro-operation of each of the acquisition,
filter and output stages (30_encoding.md rules R123, R126), and the scheduler; then all their
updates commit together ("classic two-phase evaluate/commit", 20_memory.md rule R94). -/

namespace Sys2Proof.Machine

/-! ## Which operations a tick runs -/

/-- The acquisition micro-operation, selected by `acq_state` alone (R126). -/
def Regs.acqOp {c : Config} (r : Regs c) : Instr :=
  match r.acq.state with
  | .idle => .acqIdle
  | .cnvh => .acqCnvh
  | .conv => .acqConv
  | .read => .acqRead
  | .rtt => .acqRtt

/-- The FilterEngine micro-operation, selected by `(f_state, f_k)` (R123). -/
def Regs.engineOp {c : Config} (r : Regs c) : Instr :=
  match r.filt.state with
  | .idle => .idleWait
  | .load => if r.filt.k % 2 = 0 then .loadSx else .loadWr
  | .process =>
    if r.phase = 0 then .procP0 else if r.phase = 1 then .procP1
    else if r.phase = 2 then .procP2 else .procP3
  | .shift => if r.filt.k % 2 = 0 then .shiftRd else .shiftWr

/-- The output micro-operation, selected by `o_busy` alone (R126). -/
def Regs.outOp {c : Config} (r : Regs c) : Instr := if r.out.busy then .outBusy else .outStart

/-- The acquisition pattern `a` of the state (R126). -/
def Regs.acqCode {c : Config} (r : Regs c) : Code c :=
  .acq (match r.acq.state with | .idle => 0 | .cnvh => 1 | .conv => 2 | .read => 3 | .rtt => 4)

/-- The FilterEngine pattern `{st, q}` of the state (R123). -/
def Regs.engineCode {c : Config} (r : Regs c) : Code c :=
  .engine (match r.filt.state with
    | .idle => BitVec.ofNat 2 0 ++ BitVec.ofNat 2 r.filt.k
    | .load => BitVec.ofNat 2 1 ++ BitVec.ofNat 2 (r.filt.k % 2)
    | .process => BitVec.ofNat 2 2 ++ BitVec.ofNat 2 r.filt.k
    | .shift => BitVec.ofNat 2 3 ++ BitVec.ofNat 2 (r.filt.k % 2))

/-- The output pattern `b = o_busy` of the state (R126). -/
def Regs.outCode {c : Config} (r : Regs c) : Code c := .out (BitVec.ofBool r.out.busy)

/-- The instruction a host operation is, or the `info` of its `F_HOST_BAD_OP` where it is none: an
illegal selector (R117, R118, R337), an unknown field name or kind (R376). -/
def HostOp.instr {c : Config} : HostOp c → Except FaultInfo Instr
  | .word sel v =>
    match decodeHostop c sel v with
    | .ok i => .ok i
    | .error _ => .error (.selector sel.toNat)
  | .call h => .ok h.instr
  | .named n =>
    match resolveCall n with
    | some h => .ok h.instr
    | none => .error (.call n)

/-! ## The inputs of a tick -/

/-- What the environment does next, and what remains of its script. Where nothing is scripted, it
is a tick in which `enable` holds its level, the host does nothing and every sample is left to the
free draw (log entry 10). -/
def Regs.nextEvent {c : Config} (r : Regs c) : Event c × List (Event c) :=
  match r.script with
  | [] => (.tick (TickInput.quiet c r.inp.enable), [])
  | e :: rest => (e, rest)

/-- The state at the start of a tick with its inputs presented and no output put out yet. -/
def Regs.present {c : Config} (r : Regs c) (inp : TickInput c) (rest : List (Event c)) : Regs c :=
  { r with inp := inp, script := rest, outs := TickOut.quiet c }

/-! ## Running the operations of a tick together -/

/-- Go on from a next state, knowing where it came from; a fault or a refusal ends the tick. -/
def andThen (x : Host.Outcome State Fault Refusal)
    (f : (t : State) → x = .next t → Host.Outcome State Fault Refusal) :
    Host.Outcome State Fault Refusal :=
  match x, f with
  | .next t, f => f t rfl
  | .fault e, _ => .fault e
  | .refused e, _ => .refused e

/-- No operation changes the configuration (R32). -/
theorem exec_cfg {i : Instr} {s t : State} (h : exec i s = .next t) : t.cfg = s.cfg := by
  cases i <;> (injection h with h; subst h; rfl)

/-- The registers of a state whose configuration is that of `s`, under the configuration of `s`. -/
def State.regsAs (t s : State) (h : t.cfg = s.cfg) : Regs s.cfg := h ▸ t.regs

/-- The host's part of a tick: its operation, or `F_HOST_BAD_OP` and nothing else (R320, R337, R376),
or nothing. -/
def hostPart (s : State) : Host.Outcome State Fault Refusal :=
  match s.regs.inp.op with
  | none => .next s
  | some op =>
    match op.instr with
    | .ok i => exec i s
    | .error info => nextWith s (s.regs.raise .hostBadOp info)

/-- The host's part of a tick does not change the configuration either (R32). -/
theorem hostPart_cfg {s t : State} (h : hostPart s = .next t) : t.cfg = s.cfg := by
  unfold hostPart at h
  split at h
  · cases h; rfl
  · split at h
    · exact exec_cfg h
    · injection h with h; subst h; rfl

/-- The commit at the end of a tick that began in `r` (R94): each register is taken from the one
component that owns it (20_memory.md rule R88, 10_state.md rule R30), from the state after that
component alone acted. `h`, `a`, `e`, `o` are the host's, acquisition's, engine's and output's. `SM`
has two writers, never in one tick (R88, R372). Every record raised is kept (R379). -/
def commit {c : Config} (r h a e o : Regs c) : Regs c :=
  { r with
    ctrl := h.ctrl
    cm := h.cm
    sm := if r.engineWritesSm then e.sm else h.sm
    acq := a.acq
    filt := e.filt
    out := o.out
    sched := r.schedule
    faults := addFaults r.faults (h.faults ++ a.faults ++ e.faults ++ o.faults)
    now := r.now + 1
    draws := a.draws
    outs := { hrd := h.outs.hrd, ioUpdate := o.outs.ioUpdate, delivered := o.outs.delivered,
              clip := e.outs.clip } }

/-- A tick from the state `s` at its start, its inputs presented. -/
def runTick (s : State) : Host.Outcome State Fault Refusal :=
  andThen (hostPart s) fun h hh =>
  andThen (exec s.regs.acqOp s) fun a ha =>
  andThen (exec s.regs.engineOp s) fun e he =>
  andThen (exec s.regs.outOp s) fun o ho =>
  nextWith s (commit s.regs (h.regsAs s (hostPart_cfg hh)) (a.regsAs s (exec_cfg ha))
    (e.regsAs s (exec_cfg he)) (o.regsAs s (exec_cfg ho)))

/-- What the next event does. A halted CORE takes no tick: its state stays, with `io_update = 0` and
no `hrd`, and the tick's host operation is not accepted (R338, R367; log entry 16). -/
def advance (s : State) : Host.Outcome State Fault Refusal :=
  match s.regs.nextEvent with
  | (.tick inp, rest) =>
    let r := s.regs.present inp rest
    if s.regs.halted then nextWith s r else runTick { cfg := s.cfg, regs := r }
  | (.reset, rest) => nextWith s ({ s.regs with script := rest } : Regs s.cfg).applyReset
  | (.powerUp, rest) => nextWith s ({ s.regs with script := rest } : Regs s.cfg).applyPowerUp

/-! ## Selecting the instruction the next step runs -/

/-- Make the next step run a code: a host selector becomes the host operation of the next tick; a
micro-operation pattern becomes the state of its stage (the state is what selects it, R123, R126).
The next event is made a tick and the CORE is not halted (log entry 19). -/
def Regs.place {c : Config} (r : Regs c) (code : Code Config.reference) : Regs c :=
  let quiet := TickInput.quiet c r.inp.enable
  let n : Regs c := { r with script := .tick quiet :: r.script, faults := [] }
  match code with
  | .hostop sel v =>
    { n with script := .tick { quiet with op := some (.word (sel.setWidth c.selW) v) } :: r.script }
  | .engine p =>
    let st := p.extractLsb' 2 2
    { n with filt := { n.filt with
        state := if st = 0 then .idle else if st = 1 then .load else if st = 2 then .process else .shift
        k := if st = 0 then 0 else (p.extractLsb' 0 2).toNat } }
  | .acq a =>
    { n with acq := { n.acq with
        state := if a = 0 then .idle else if a = 1 then .cnvh else if a = 2 then .conv
          else if a = 3 then .read else .rtt } }
  | .out b => { n with out := { n.out with busy := b.getLsbD 0 } }

end Sys2Proof.Machine
end

