-- ==== Sys2Proof/Machine/Step.lean ====
section
/-! DEFINITION. The machine's step: one event of the environment, a tick unless it is a reset
(10_state.md rule R31, 60_exceptions.md rule R361). -/

namespace Sys2Proof.Machine

/-- One step. A configuration that fails a check has no tick (R361). -/
def step (s : State) : Host.Outcome State Fault Refusal :=
  if s.cfg.valid then advance s else .fault (.configuration s.cfg.failedChecks)

/-- `s` with an opcode-table word where the next step takes it from; `s` itself where the bits are
no word of the table's formats. -/
def State.withFetchWord (s : State) (nbits w : Nat) : State :=
  match tableCode nbits w with
  | some code => { cfg := s.cfg, regs := s.regs.place code }
  | none => s

end Sys2Proof.Machine
end

