-- ==== Sys2Proof/Machine/Script.lean ====
section
/-! DEFINITION. Host scripts (30_encoding.md rule R125): the statements, the expansions of the
pseudo-instructions, running a script against ticks, and the line syntax. Nothing of the machine
depends on this file: it is how a program of the CORE (00_scope.md rule R4) becomes inputs of its
ticks. -/

namespace Sys2Proof.Machine

/-- A statement of a host script (R125). -/
inductive Stmt where
  /-- a host operation, in the current tick, which it ends -/
  | host (h : HostCall)
  /-- the same, its field name or kind as the line writes it -/
  | named (n : NamedCall)
  /-- drive `enable` from the current tick on -/
  | enable (b : Bool)
  /-- the value `sample[ch]` drawn at the next acquisition completion -/
  | sample (ch : Nat) (v : Int)
  /-- advance `n` ticks -/
  | tick (n : Nat)
  /-- an assertion on the state, no effect -/
  | expect (name : List Char) (v : Int)
  | setIir (ch prof : Nat) (a1 b0 b1 offset : Int)
  | setDds (ch prof : Nat) (ftw pow : Int)
  | setCfg (ch prof sel delay : Nat)
  | waitCycle
deriving DecidableEq, Repr

/-- The pseudo-instructions' expansions, one host operation per tick, in this order (R125). -/
def Stmt.expand (c : Config) : Stmt → List Stmt
  | .host h => [.host h]
  | .named n => [.named n]
  | .enable b => [.enable b]
  | .sample ch v => [.sample ch v]
  | .tick n => [.tick n]
  | .expect name v => [.expect name v]
  | .setIir ch prof a1 b0 b1 offset =>
    [.host (.setCoeff ch prof .a1 a1), .host (.setCoeff ch prof .b0 b0),
     .host (.setCoeff ch prof .b1 b1), .host (.setCoeff ch prof .offset offset)]
  | .setDds ch prof ftw pow =>
    [.host (.setCoeff ch prof .ftw0 (ftw % ((2 ^ c.WD : Nat) : Int))),
     .host (.setCoeff ch prof .ftw1 (ftw >>> c.WD)), .host (.setCoeff ch prof .pow pow)]
  | .setCfg ch prof sel delay =>
    [.host (.setCoeff ch prof .cfg ((sel ||| (delay <<< 8) : Nat) : Int))]
  | .waitCycle => [.tick c.tCycle]

/-- A script at work: the machine, the level driven on `enable`, and the samples named for the next
acquisition completion (log entry 27). -/
structure Driver where
  state : State
  enable : Bool
  samples : List (Nat × Int)
deriving DecidableEq, Repr

/-- The samples a script drives, a later statement before an earlier one. DESIGN CHOICE, R125 being
silent: a value outside `width` bits is cut to them, and a channel `N_ch` or above is no channel's and
drives nothing (log entry 27). -/
def scriptSamples (c : Config) (named : List (Nat × Int)) : Vector (Option (BitVec c.W)) c.nCh :=
  Vector.ofFn fun ch => (named.find? fun p => p.1 == ch.val).map fun p => trunc c.W p.2

/-- An acquisition completes in this tick (R156): its samples are drawn. -/
def Regs.drawsSamples {c : Config} (r : Regs c) : Bool :=
  !r.halted && r.acq.state == .rtt && r.acq.cnt == 0

/-- One tick of a script, with the host operation `op`. -/
def Driver.runTick (d : Driver) (op : Option (HostOp d.state.cfg)) : Host.Outcome Driver Fault Refusal :=
  let c := d.state.cfg
  let inp : TickInput c :=
    { enable := d.enable, op := op, samples := scriptSamples c d.samples }
  let r : Regs c := { d.state.regs with script := .tick inp :: d.state.regs.script }
  match step { cfg := c, regs := r } with
  | .next t =>
    .next { d with
      state := t
      samples := if d.state.regs.drawsSamples then [] else d.samples }
  | .fault e => .fault e
  | .refused e => .refused e

/-- `n` ticks without a host operation. -/
def Driver.runTicks (d : Driver) (n : Nat) : Host.Outcome Driver Fault Refusal :=
  match n with
  | 0 => .next d
  | n + 1 =>
    match d.runTick none with
    | .next d => d.runTicks n
    | .fault e => .fault e
    | .refused e => .refused e

/-- One statement that is no pseudo-instruction; a pseudo-instruction has no effect of its own
(`Driver.run` expands it). -/
def Driver.runStmt (d : Driver) (s : Stmt) : Host.Outcome Driver Fault Refusal :=
  match s with
  | .host h => d.runTick (some (.call h))
  | .named n => d.runTick (some (.named n))
  | .enable b => .next { d with enable := b }
  | .sample ch v => .next { d with samples := (ch, v) :: d.samples }
  | .tick n => d.runTicks n
  | .expect _ _ => .next d
  | .setIir .. => .next d
  | .setDds .. => .next d
  | .setCfg .. => .next d
  | .waitCycle => .next d

/-- Statements in order. -/
def Driver.runCore (d : Driver) (l : List Stmt) : Host.Outcome Driver Fault Refusal :=
  match l with
  | [] => .next d
  | s :: rest =>
    match d.runStmt s with
    | .next d => d.runCore rest
    | .fault e => .fault e
    | .refused e => .refused e

/-- A whole script, its pseudo-instructions expanded (R125). -/
def Driver.run (d : Driver) (l : List Stmt) : Host.Outcome Driver Fault Refusal :=
  d.runCore (l.flatMap (Stmt.expand d.state.cfg))

/-- A script starts on a machine with `enable = 0` (70_reset_and_hazards.md rule R404). -/
def Driver.start (s : State) : Driver := { state := s, enable := false, samples := [] }

/-! ## Line syntax (R125) -/

namespace ScriptText

/-- A line without its comment: `;` starts one. -/
def stripComment (l : List Char) : List Char := l.takeWhile (· != ';')

/-- The words of a line: spaces, tabs and commas separate them. -/
def words (l : List Char) (cur : List Char) : List (List Char) :=
  match l with
  | [] => if cur.isEmpty then [] else [cur.reverse]
  | ch :: rest =>
    if ch == ' ' || ch == '\t' || ch == ',' then
      if cur.isEmpty then words rest [] else cur.reverse :: words rest []
    else words rest (ch :: cur)

/-- The value of a digit in base 16. -/
def digit (ch : Char) : Option Nat :=
  let n := ch.toNat
  if 48 ≤ n ∧ n ≤ 57 then some (n - 48)
  else if 97 ≤ n ∧ n ≤ 102 then some (n - 87)
  else if 65 ≤ n ∧ n ≤ 70 then some (n - 55)
  else none

/-- Digits in a base. -/
def digits (base : Nat) (l : List Char) (acc : Nat) : Option Nat :=
  match l with
  | [] => some acc
  | ch :: rest =>
    match digit ch with
    | some k => if k < base then digits base rest (acc * base + k) else none
    | none => none

/-- A number, decimal or `0x` hexadecimal. -/
def nat (l : List Char) : Option Nat :=
  match l with
  | [] => none
  | '0' :: 'x' :: rest => if rest.isEmpty then none else digits 16 rest 0
  | l => digits 10 l 0

/-- A number with an optional minus sign. -/
def int (l : List Char) : Option Int :=
  match l with
  | '-' :: rest => (nat rest).map fun n => -(n : Int)
  | l => (nat l).map fun n => (n : Int)

/-- A bit operand, of `enable` and `set_ctrl`: a number as R125 writes numbers, so `0x1` and `01` are 1.
DESIGN CHOICE, R125 being silent: a number other than 0 and 1 is no bit, and its line no statement (log
entry 27). -/
def bit (l : List Char) : Option Bool :=
  match nat l with
  | some 0 => some false
  | some 1 => some true
  | _ => none

/-- The profile of a state operation: a number, or `-` for none. -/
def profOrNone (l : List Char) : Option (Option Nat) :=
  if l = ['-'] then some none else (nat l).map some

/-- A statement from its words. A field name or kind is any word: the machine refuses the ones it does
not know (R376). -/
def stmt (ws : List (List Char)) : Option Stmt :=
  match ws with
  | [['s', 'e', 't', '_', 'c', 'o', 'e', 'f', 'f'], ch, p, f, v] =>
    match nat ch, nat p, int v with
    | some ch, some p, some v => some (.named (.setCoeff ch p f v))
    | _, _, _ => none
  | [['g', 'e', 't', '_', 'c', 'o', 'e', 'f', 'f'], ch, p, f] =>
    match nat ch, nat p with
    | some ch, some p => some (.named (.getCoeff ch p f))
    | _, _ => none
  | [['s', 'e', 't', '_', 's', 't', 'a', 't', 'e'], ch, p, k, v] =>
    match nat ch, profOrNone p, int v with
    | some ch, some p, some v => some (.named (.setState ch p k v))
    | _, _, _ => none
  | [['g', 'e', 't', '_', 's', 't', 'a', 't', 'e'], ch, p, k] =>
    match nat ch, profOrNone p with
    | some ch, some p => some (.named (.getState ch p k))
    | _, _ => none
  | [['s', 'e', 't', '_', 'c', 't', 'r', 'l'], ch, p, o, i] =>
    match nat ch, nat p, bit o, bit i with
    | some ch, some p, some o, some i => some (.host (.setCtrl ch p o i))
    | _, _, _, _ => none
  | [['e', 'n', 'a', 'b', 'l', 'e'], b] => (bit b).map .enable
  | [['s', 'a', 'm', 'p', 'l', 'e'], ch, v] =>
    match nat ch, int v with
    | some ch, some v => some (.sample ch v)
    | _, _ => none
  | [['t', 'i', 'c', 'k'], n] =>
    match nat n with
    | some n => if 1 ≤ n then some (.tick n) else none
    | none => none
  | [['e', 'x', 'p', 'e', 'c', 't'], name, ['='], v] => (int v).map fun v => .expect name v
  | [['s', 'e', 't', '_', 'i', 'i', 'r'], ch, p, a1, b0, b1, o] =>
    match nat ch, nat p, int a1, int b0, int b1, int o with
    | some ch, some p, some a1, some b0, some b1, some o => some (.setIir ch p a1 b0 b1 o)
    | _, _, _, _, _, _ => none
  | [['s', 'e', 't', '_', 'd', 'd', 's'], ch, p, f, w] =>
    match nat ch, nat p, int f, int w with
    | some ch, some p, some f, some w => some (.setDds ch p f w)
    | _, _, _, _ => none
  | [['s', 'e', 't', '_', 'c', 'f', 'g'], ch, p, s, d] =>
    match nat ch, nat p, nat s, nat d with
    | some ch, some p, some s, some d => some (.setCfg ch p s d)
    | _, _, _, _ => none
  | [['w', 'a', 'i', 't', '_', 'c', 'y', 'c', 'l', 'e']] => some .waitCycle
  | _ => none

/-- One line of a script: nothing but a comment or blanks, a statement, or no statement. -/
def line (l : List Char) : Option (List Stmt) :=
  match words (stripComment l) [] with
  | [] => some []
  | ws => (stmt ws).map fun s => [s]

end ScriptText

end Sys2Proof.Machine
end

