-- ==== Sys2Proof/Safety.lean ====
section
/-! DEFINITION. What counts as a safe run, in the terms the claims use: no contract fault recorded
(60_exceptions.md rule R367: "A proof about a run holds only up to its first fault"), and the
invariants of the machine: the memories' canonical form and extent (20_memory.md rules R81, R85),
the ranges of the counters (10_state.md rules R35, R37, R45, R47), and where each stage stands in
the sampling cycle (43_scheduler.md rules R296, R298, R299). -/

namespace Sys2Proof.Machine

/-- The state has recorded no contract fault (R50). -/
abbrev Safe (s : State) : Prop := s.regs.faults = []

/-- A code the checked configurations never raise (R378 "reachable under the checks: no"). -/
def FaultCode.excludedByChecks : FaultCode → Bool
  | .startBusyAcq => true
  | .startBusyIir => true
  | .startBusyOut => true
  | .adcDataInvalid => true
  | _ => false

namespace Regs

variable {c : Config}

/-- Both memories are canonical and hold only addresses their spaces have (R81, R85, R92). -/
abbrev MemOk (r : Regs c) : Prop :=
  r.cm.wf c.memInit = true ∧ r.sm.wf c.memInit = true ∧
  r.cm.below (2 * cmWords c) = true ∧ r.sm.below (smWords c) = true

/-- What the environment does is ticks alone: no reset and no power-up is scripted. -/
abbrev OnlyTicks (r : Regs c) : Prop := ∀ e ∈ r.script, ∃ inp, e = Event.tick inp

/-- What the environment does is ticks without a host operation. -/
abbrev NoHostOps (r : Regs c) : Prop :=
  ∀ e ∈ r.script, ∃ inp, e = Event.tick inp ∧ inp.op = none

/-- Ticks since the `acq_start` of the acquisition under way (R151, R157); 0 in IDLE. -/
def acqPos (r : Regs c) : Nat :=
  match r.acq.state with
  | .idle => 0
  | .cnvh => c.acq.tCnvh - r.acq.cnt
  | .conv => c.acq.tCnvh + (c.acq.tConv - 1) - r.acq.cnt
  | .read => c.acq.tCnvh + (c.acq.tConv - 1) + c.tRead - r.acq.cnt
  | .rtt => c.acq.tCnvh + (c.acq.tConv - 1) + c.tRead + c.acq.tRtt - r.acq.cnt

/-- Ticks since the `filt_start` of the sweep under way (R192); 0 in IDLE. -/
def filtPos (r : Regs c) : Nat :=
  match r.filt.state with
  | .idle => 0
  | .load => 1 + r.filt.k
  | .process => 1 + c.tLoad + r.filt.k
  | .shift => 1 + c.tLoad + c.tProc + r.filt.k

/-- Ticks since the `out_start` of the frame being sent (R262, R264); 0 when idle. -/
def outPos (r : Regs c) : Nat := if r.out.busy then c.tOutput - 1 - r.out.cnt else 0

/-- Every counter is in the range its state gives it (R35, R37, R45, R47; R192 for `f_k`). -/
abbrev CountersOk (r : Regs c) : Prop :=
  (r.acq.state = .cnvh → r.acq.cnt < c.acq.tCnvh) ∧
  (r.acq.state = .conv → r.acq.cnt < c.acq.tConv - 1) ∧
  (r.acq.state = .read → r.acq.cnt < c.tRead) ∧
  (r.acq.state = .rtt → r.acq.cnt < c.acq.tRtt) ∧
  (r.filt.state = .idle → r.filt.k = 0) ∧
  (r.filt.state = .load → r.filt.k < c.tLoad) ∧
  (r.filt.state = .process → r.filt.k < c.tProc) ∧
  (r.filt.state = .shift → r.filt.k < c.tShift) ∧
  (r.out.busy = true → r.out.cnt ≤ c.tOutput - 2) ∧
  r.sched.cnt < c.tCycle

/-- Where the stages stand in the sampling cycle: the scheduler's counter plus the ticks since the
sample's `acq_start` is a whole number of cycles, for each stage at work, and a token is only up
where the stage it starts can take it (R295, R296, R298, R299). -/
abbrev StagesOk (r : Regs c) : Prop :=
  (r.acq.state ≠ .idle → r.sched.cnt + r.acqPos = c.tCycle) ∧
  (r.sched.token0 = true → r.acq.state = .idle → r.sched.cnt + c.tAcq = c.tCycle) ∧
  (r.filt.state ≠ .idle →
    r.sched.cnt + c.tAcq + r.filtPos = c.tCycle ∨ r.sched.cnt + c.tAcq + r.filtPos = 2 * c.tCycle) ∧
  (r.sched.token1 = true →
    r.filt.state = .load ∨ r.filt.state = .process ∨ (r.filt.state = .shift ∧ r.filt.k = 0)) ∧
  (r.out.busy = true →
    r.sched.cnt + c.tAcq + c.tFilter + r.outPos = c.tCycle ∨
    r.sched.cnt + c.tAcq + c.tFilter + r.outPos = 2 * c.tCycle ∨
    r.sched.cnt + c.tAcq + c.tFilter + r.outPos = 3 * c.tCycle)

end Regs

/-- The invariant of the machine. -/
abbrev Inv (s : State) : Prop :=
  s.cfg.valid = true ∧ s.regs.MemOk ∧ s.regs.CountersOk ∧ s.regs.StagesOk

end Sys2Proof.Machine
end

