-- ==== Sys2Proof/Certificates/Slice0/Obligations.lean ====
section
/-! DEFINITION. The statements about the machine, for the provers. Each docstring names the rules of
spec/ it rests on. `r` is the state of the CORE under the configuration `c`; `exec i ⟨c, r⟩` is the
state after a tick in which `i` alone acts, and `step` runs the operations of one tick together. -/

open Sys2Proof Sys2Proof.Machine

/-! ## Invariants and whole-machine statements -/

/-- The state right after reset meets the invariant (R54, R362, R401). The reference timing of
`State.reset` is the model's choice among the spec's examples (log entry 2). -/
def Obligations.ResetMeetsTheInvariant : Prop := Inv State.reset

/-- Every step keeps the invariant: both memories canonical and inside their spaces, every counter
in its range, every stage at its place in the sampling cycle (R81, R85, R37, R47, R296, R298). -/
def Obligations.StepKeepsTheInvariant : Prop :=
  ∀ s t : State, Inv s → step s = .next t → Inv t

/-- In a checked configuration no step raises a busy start or reads invalid samples: the faults of
R378's "reachable under the checks: no" (R296, R301, R374, R377). -/
def Obligations.CheckedConfigurationsNeverStartABusyStage : Prop :=
  ∀ s t : State, Inv s → step s = .next t →
    ∀ f ∈ t.regs.faults, f ∈ s.regs.faults ∨ f.code.excludedByChecks = false

/-- A CORE whose memories power up zeroed and whose environment does nothing but drive `enable` and
samples runs for ever without a fault (R296, R301, R375). -/
def Obligations.QuietZeroedMachineNeverFaults : Prop :=
  ∀ (s : State) (n : Nat), Inv s → s.cfg.memInit = .zero → s.regs.NoHostOps → Safe s →
    ∃ t : State, Sys2Proof.core.run n s = .next t ∧ Safe t

/-- R157: an `acq_start` in a tick gives `acq_done = 0` in the `T_acq - 1` ticks after it, `acq_done
= 1` in the tick `T_acq` after it, and `reading = 1` in exactly the ticks from `t_cnvh + t_conv` to
`T_acq - 1` after it, whatever the host does, up to the first fault. -/
def Obligations.AcquisitionTakesTacqTicks : Prop :=
  ∀ (s : State) (inp : TickInput s.cfg) (rest : List (Event s.cfg)),
    Inv s → Safe s → s.regs.OnlyTicks → s.regs.nextEvent = (.tick inp, rest) →
    inp.enable = true → s.regs.sched.cnt = 0 →
    (∀ j, 0 < j → j < s.cfg.tAcq → ∃ t : State, Sys2Proof.core.run j s = .next t ∧
      (Safe t → t.regs.acqDone = false ∧
        t.regs.reading = decide (s.cfg.acq.tCnvh + s.cfg.acq.tConv ≤ j))) ∧
    ∃ t : State, Sys2Proof.core.run s.cfg.tAcq s = .next t ∧
      (Safe t → t.regs.acqDone = true ∧ t.regs.reading = false)

/-- R192: a `filt_start` in a tick gives LOAD in the `2·N_ch` ticks after it, PROCESS in the next
`4·N_ch + 4`, SHIFT in the next `2·N_ch`, shift entry in the tick `6·N_ch + 5` after it, and IDLE in
the tick `8·N_ch + 5` after it, whatever the host does, up to the first fault. -/
def Obligations.SweepFollowsItsTimetable : Prop :=
  ∀ s : State, Inv s → Safe s → s.regs.OnlyTicks → s.regs.filtStart = true →
    ∀ j, 0 < j → j ≤ 8 * s.cfg.nCh + 5 → ∃ t : State, Sys2Proof.core.run j s = .next t ∧
      (Safe t →
        (j ≤ 2 * s.cfg.nCh → t.regs.filt.state = .load ∧ t.regs.filt.k = j - 1) ∧
        (2 * s.cfg.nCh < j → j ≤ 6 * s.cfg.nCh + 4 →
          t.regs.filt.state = .process ∧ t.regs.filt.k = j - 1 - 2 * s.cfg.nCh) ∧
        (6 * s.cfg.nCh + 4 < j → j ≤ 8 * s.cfg.nCh + 4 →
          t.regs.filt.state = .shift ∧ t.regs.filt.k = j - (6 * s.cfg.nCh + 5)) ∧
        (j = 8 * s.cfg.nCh + 5 → t.regs.fDone = true) ∧
        (t.regs.shiftEntry = true ↔ j = 6 * s.cfg.nCh + 5))

/-- R264: an `out_start` in a tick gives `o_done = 0` in the `t_output - 1` ticks after it and
`o_done = 1` in the tick `t_output` after it, whatever the host does, up to the first fault. -/
def Obligations.OutputTakesToutputTicks : Prop :=
  ∀ s : State, Inv s → Safe s → s.regs.OnlyTicks → s.regs.outStart = true →
    ∀ j, 0 < j → j ≤ s.cfg.tOutput → ∃ t : State, Sys2Proof.core.run j s = .next t ∧
      (Safe t → t.regs.oDone = decide (j = s.cfg.tOutput))

/-! ## The step -/

/-- One step of a CORE that is not halted runs the instruction of the host's selector or call, if there
is one, and the instructions that the three stages' patterns decode to, each on the state at the start
of the tick, and commits what each owns together with the scheduler's update (R94, R123, R126,
R320). How the model commits is its own reading of R94 (log entry 9). -/
def Obligations.StepRunsTheDecodedInstructions : Prop :=
  ∀ (c : Config) (r h a e o : Regs c) (inp : TickInput c) (rest : List (Event c)) (ia ie io : Instr),
    c.valid = true → r.faults = [] → r.nextEvent = (.tick inp, rest) →
    decode c (r.present inp rest).acqCode = .ok ia →
    decode c (r.present inp rest).engineCode = .ok ie →
    decode c (r.present inp rest).outCode = .ok io →
    (inp.op = none ∧ h = r.present inp rest ∨
      (∃ sel v ih, inp.op = some (.word sel v) ∧ decode c (.hostop sel v) = .ok ih ∧
        exec ih ⟨c, r.present inp rest⟩ = .next ⟨c, h⟩) ∨
      ∃ call : HostCall, (inp.op = some (.call call) ∨
          ∃ n, inp.op = some (.named n) ∧ resolveCall n = some call) ∧
        exec call.instr ⟨c, r.present inp rest⟩ = .next ⟨c, h⟩) →
    exec ia ⟨c, r.present inp rest⟩ = .next ⟨c, a⟩ →
    exec ie ⟨c, r.present inp rest⟩ = .next ⟨c, e⟩ →
    exec io ⟨c, r.present inp rest⟩ = .next ⟨c, o⟩ →
    step ⟨c, r⟩ = .next ⟨c,
      { r.present inp rest with
        ctrl := h.ctrl, cm := h.cm
        sm := if (r.present inp rest).engineWritesSm then e.sm else h.sm
        acq := a.acq, draws := a.draws, filt := e.filt, out := o.out
        sched := (r.present inp rest).schedule
        now := r.now + 1
        faults := addFaults [] (h.faults ++ a.faults ++ e.faults ++ o.faults)
        outs := TickOut.mk h.outs.hrd o.outs.ioUpdate o.outs.delivered e.outs.clip }⟩

/-- In every state each stage's pattern decodes, and to the instruction the step runs for it (R123,
R126): no transition produces a pattern of no row. -/
def Obligations.EveryStagePatternDecodes : Prop :=
  ∀ (c : Config) (r : Regs c),
    decode c r.acqCode = .ok r.acqOp ∧ decode c r.engineCode = .ok r.engineOp ∧
    decode c r.outCode = .ok r.outOp

/-- Within one tick no stage observes the host operation of that tick: two ticks from one state that
differ in the host operation alone leave the same acquisition, filter, output and scheduler
registers (R94 rule 3, R320 "no engine read of the same tick does"). -/
def Obligations.StagesIgnoreTheHostOperationOfTheirTick : Prop :=
  ∀ (c : Config) (r t u : Regs c) (inp : TickInput c) (op op' : Option (HostOp c))
    (rest : List (Event c)),
    step ⟨c, { r with script := .tick { inp with op := op } :: rest }⟩ = .next ⟨c, t⟩ →
    step ⟨c, { r with script := .tick { inp with op := op' } :: rest }⟩ = .next ⟨c, u⟩ →
    r.faults = [] →
    t.acq = u.acq ∧ t.filt = u.filt ∧ t.out = u.out ∧ t.sched = u.sched ∧ t.draws = u.draws

/-- R367: a halted CORE takes no step: its registers and memories stay, with `io_update = 0` and no
`hrd`, and no host operation is accepted (R338). That the script of the environment goes on is the
model's choice (log entry 16). -/
def Obligations.HaltedCoreKeepsItsState : Prop :=
  ∀ (c : Config) (r : Regs c) (inp : TickInput c) (rest : List (Event c)),
    c.valid = true → r.faults ≠ [] → r.nextEvent = (.tick inp, rest) →
    step ⟨c, r⟩ = .next ⟨c, { r with
      inp := inp, script := rest, outs := TickOut.mk none false none none }⟩

/-- R361: a configuration that fails a check has no tick; the answer is the list of failed checks,
which is not empty. -/
def Obligations.RefusedConfigurationHasNoTick : Prop :=
  ∀ (c : Config) (r : Regs c), (∃ k, c.holds k = false) →
    step ⟨c, r⟩ = .fault (.configuration c.failedChecks) ∧ c.failedChecks ≠ [] ∧
    ∀ k, k ∈ c.failedChecks ↔ c.holds k = false

/-- R400: a reset puts every register to which R54 gives a value at that value, empties `FAULTS`, keeps
the contents and marks of both memories, and makes the next tick tick 0. That the script of the
environment stays is the model's choice (log entry 6). -/
def Obligations.ResetKeepsTheMemories : Prop :=
  ∀ (c : Config) (r : Regs c) (rest : List (Event c)), c.valid = true → r.script = .reset :: rest →
    ∃ t : Regs c, step ⟨c, r⟩ = .next ⟨c, t⟩ ∧ t.cm = r.cm ∧ t.sm = r.sm ∧ t.faults = [] ∧ t.now = 0 ∧
      (∀ ch : Fin c.nCh, t.ctrl[ch] = ChanCtl.mk 0 false false ∧
        t.filt.lat[ch] = ChanCtl.mk 0 false false ∧ t.filt.dly[ch] = 0) ∧
      t.acq.state = .idle ∧ t.acq.cnt = 0 ∧ t.filt.state = .idle ∧ t.filt.k = 0 ∧
      t.out.busy = false ∧ t.out.cnt = 0 ∧ (∀ j, j ≤ c.updDelay → t.out.dl.getLsbD j = true) ∧
      t.sched = SchedRegs.mk 0 false false ∧ t.script = rest

/-- R402: a power-up is a reset whose memories hold what `MEM_INIT` says: nothing defined, or 0
everywhere. -/
def Obligations.PowerUpMemoriesHoldMemInit : Prop :=
  ∀ (c : Config) (r : Regs c) (rest : List (Event c)), c.valid = true → r.script = .powerUp :: rest →
    ∃ t u : Regs c, step ⟨c, r⟩ = .next ⟨c, t⟩ ∧
      step ⟨c, { r with script := .reset :: rest }⟩ = .next ⟨c, u⟩ ∧
      t = { u with cm := t.cm, sm := t.sm } ∧
      (c.memInit = .unspecified → ∀ a, t.stRead a = none ∧ t.coefRead a = none) ∧
      (c.memInit = .zero → ∀ a, t.stRead a = some 0 ∧ t.coefRead a = some 0)

/-! ## CycleScheduler -/

/-- R292, R295: the counter and the token after a tick. -/
def Obligations.SchedulerCountsAndPassesTheToken : Prop :=
  ∀ (c : Config) (r t : Regs c) (inp : TickInput c) (rest : List (Event c)),
    c.valid = true → r.faults = [] → r.script = .tick inp :: rest →
    step ⟨c, r⟩ = .next ⟨c, t⟩ →
    t.sched.cnt = (if r.sched.cnt = 0 then c.tCycle - 1 else r.sched.cnt - 1) ∧
    t.sched.token0 =
      (if inp.enable = true ∧ r.sched.cnt = 0 then true
       else if r.sched.token0 = true ∧ r.acq.state = .idle then false else r.sched.token0) ∧
    t.sched.token1 =
      (if r.sched.token0 = true ∧ r.acq.state = .idle then r.sched.token0
       else if r.sched.token1 = true ∧ r.filt.state = .shift ∧ r.filt.k = 0 then false
       else r.sched.token1)

/-! ## AcquisitionController -/

/-- R152: `ACQ_IDLE` asserts `done` alone, and on a start loads `t_cnvh - 1` and goes to CNVH;
nothing else changes. -/
def Obligations.AcqIdleAcceptsAStart : Prop :=
  ∀ (c : Config) (r : Regs c),
    (r.acq.state = .idle →
      r.acqDone = true ∧ r.reading = false ∧ r.cnv = false ∧ r.sckEn = false) ∧
    (r.inp.enable = true → r.sched.cnt = 0 → exec .acqIdle ⟨c, r⟩ = .next ⟨c, { r with
      acq := { r.acq with state := .cnvh, cnt := c.acq.tCnvh - 1 } }⟩) ∧
    (¬ (r.inp.enable = true ∧ r.sched.cnt = 0) → exec .acqIdle ⟨c, r⟩ = .next ⟨c, r⟩)

/-- R153, R154, R155: CNVH, CONV and READ count down, and on 0 load the next state's countdown and
go there; nothing else changes (no start arriving). In every state, by R152 to R156: `acq_done` is 1
exactly in IDLE, `cnv` exactly in CNVH, `sck_en` exactly in READ, `reading` exactly in READ and RTT. -/
def Obligations.AcqTimedStatesCountDown : Prop :=
  ∀ (c : Config) (r : Regs c),
    ((r.acqDone = true ↔ r.acq.state = .idle) ∧ (r.cnv = true ↔ r.acq.state = .cnvh) ∧
      (r.sckEn = true ↔ r.acq.state = .read) ∧
      (r.reading = true ↔ r.acq.state = .read ∨ r.acq.state = .rtt)) ∧
    (¬ (r.inp.enable = true ∧ r.sched.cnt = 0) →
    (r.acq.cnt = 0 →
      exec .acqCnvh ⟨c, r⟩ = .next ⟨c, { r with
        acq := { r.acq with state := .conv, cnt := c.acq.tConv - 2 } }⟩ ∧
      exec .acqConv ⟨c, r⟩ = .next ⟨c, { r with
        acq := { r.acq with state := .read, cnt := c.tRead - 1 } }⟩ ∧
      exec .acqRead ⟨c, r⟩ = .next ⟨c, { r with
        acq := { r.acq with state := .rtt, cnt := c.acq.tRtt - 1 } }⟩) ∧
    (r.acq.cnt ≠ 0 → ∀ i ∈ [Instr.acqCnvh, .acqConv, .acqRead],
      exec i ⟨c, r⟩ = .next ⟨c, { r with acq := { r.acq with cnt := r.acq.cnt - 1 } }⟩))

/-- R156, R158: `ACQ_RTT` counts down, and on 0 takes the tick's samples into `data` and returns to
IDLE; nothing else changes but the model's counter of draws (no start arriving). A sample the
environment does not drive is the free draw (log entry 11). -/
def Obligations.AcqRttDeliversTheSamples : Prop :=
  ∀ (c : Config) (r : Regs c), ¬ (r.inp.enable = true ∧ r.sched.cnt = 0) →
    (r.acq.cnt ≠ 0 → exec .acqRtt ⟨c, r⟩ =
      .next ⟨c, { r with acq := { r.acq with cnt := r.acq.cnt - 1 } }⟩) ∧
    (r.acq.cnt = 0 → ∃ data : Vector (BitVec c.W) c.nCh,
      exec .acqRtt ⟨c, r⟩ = .next ⟨c, { r with
        acq := { r.acq with state := .idle, data := data }, draws := r.draws + 1 }⟩ ∧
      ∀ ch : Fin c.nCh,
        (∀ v, r.inp.samples[ch] = some v → data[ch] = v) ∧
        (r.inp.samples[ch] = none → data[ch] = Config.freeSample c.W r.draws ch.val))

/-- R374: a start that reaches a busy stage is recorded, the start is not taken, and the stage goes
on as it would without it. -/
def Obligations.BusyStageRecordsAndIgnoresAStart : Prop :=
  ∀ (c : Config) (r : Regs c),
    (∀ i ∈ [Instr.acqCnvh, .acqConv, .acqRead, .acqRtt], r.acqStart = true →
      ∃ t u : Regs c, exec i ⟨c, r⟩ = .next ⟨c, t⟩ ∧
        exec i ⟨c, { r with inp := { r.inp with enable := false } }⟩ = .next ⟨c, u⟩ ∧
        t.acq = u.acq ∧ t.draws = u.draws ∧
        t.faults = addFault r.faults ⟨.startBusyAcq, r.now, .none⟩) ∧
    (∀ i ∈ [Instr.loadSx, .loadWr, .procP0, .procP1, .procP2, .procP3, .shiftRd, .shiftWr],
      r.filtStart = true →
      ∃ t u : Regs c, exec i ⟨c, r⟩ = .next ⟨c, t⟩ ∧
        exec i ⟨c, { r with sched := { r.sched with token0 := false } }⟩ = .next ⟨c, u⟩ ∧
        t.filt = u.filt ∧ t.sm = u.sm ∧ FaultRec.mk .startBusyIir r.now .none ∈ t.faults) ∧
    (r.outStart = true →
      ∃ t u : Regs c, exec .outBusy ⟨c, r⟩ = .next ⟨c, t⟩ ∧
        exec .outBusy ⟨c, { r with sched := { r.sched with token1 := false } }⟩ = .next ⟨c, u⟩ ∧
        t.out = u.out ∧ t.faults = addFault r.faults ⟨.startBusyOut, r.now, .none⟩)

/-! ## FilterEngine -/

/-- R195, R196: `IDLE_WAIT` does nothing without a start; with one it latches ChannelControl of
every channel and begins LOAD; nothing else changes. -/
def Obligations.IdleWaitLatchesChannelControl : Prop :=
  ∀ (c : Config) (r : Regs c),
    (r.filtStart = false → exec .idleWait ⟨c, r⟩ = .next ⟨c, r⟩) ∧
    (r.filtStart = true → exec .idleWait ⟨c, r⟩ = .next ⟨c, { r with
      filt := { r.filt with state := .load, k := 0, lat := r.ctrl } }⟩)

/-- R197, R199: `LOAD_SX` of channel `i` loads `SX` with the sample, sign-extended to the state
width and shifted left by `X_ALIGN`; nothing else changes but `f_k`. -/
def Obligations.LoadSxWidensTheSample : Prop :=
  ∀ (c : Config) (r : Regs c) (i : Fin c.nCh),
    c.valid = true → r.filtStart = false → r.reading = false → r.filt.k = 2 * i.val →
    exec .loadSx ⟨c, r⟩ = .next ⟨c, { r with filt := { r.filt with
      sx := BitVec.ofInt c.S (r.acq.data[i].toInt * 2 ^ c.xAlign)
      k := 2 * i.val + 1 } }⟩

/-- R377: `LOAD_SX` while the samples are invalid records the fault with the channel and loads
nothing; the walk goes on. -/
def Obligations.LoadSxRefusesInvalidSamples : Prop :=
  ∀ (c : Config) (r : Regs c) (i : Fin c.nCh),
    r.filtStart = false → r.reading = true → r.filt.k = 2 * i.val →
    exec .loadSx ⟨c, r⟩ = .next ⟨c, { r with
      faults := addFault r.faults ⟨.adcDataInvalid, r.now, .chan i.val⟩
      filt := { r.filt with k := 2 * i.val + 1 } }⟩

/-- R85, R199: `LOAD_WR` of channel `i` writes `SX` to the word `(2^P << C) | i` of `SM` and no other
word, and after the last channel PROCESS begins (R193); nothing else changes. -/
def Obligations.LoadWrStoresTheSample : Prop :=
  ∀ (c : Config) (r : Regs c) (i : Fin c.nCh),
    r.filtStart = false → r.filt.state = .load → r.filt.k = 2 * i.val + 1 →
    r.sm.wf c.memInit = true →
    ∃ m : Mem c.S, exec .loadWr ⟨c, r⟩ = .next ⟨c, { r with
        sm := m
        filt := { r.filt with
          state := if i.val + 1 = c.nCh then .process else .load
          k := if i.val + 1 = c.nCh then 0 else 2 * i.val + 2 } }⟩ ∧
      ∀ a, m.read c.memInit a =
        if a = 2 ^ c.P * 2 ^ c.C + i.val then some r.filt.sx else r.stRead a

/-- R206: in slot `s < N_ch` phases 0, 1, 2 load `CQ[φ]` with word `φ` of (channel `s`, profile
`LAT[s].profile`), and phase 3 loads `CX` with the three words fetched and word 3. -/
def Obligations.FetchLoadsTheFourWords : Prop :=
  ∀ (c : Config) (r : Regs c) (s : Fin c.nCh) (w : BitVec (c.K + c.K)),
    (∀ (p : Fin 3), r.filt.k = 4 * s.val + p.val →
      r.coefRead (s.val * 2 ^ (c.P + 2) + r.filt.lat[s].profile.toNat * 4 + p.val) = some w →
      ∃ t : Regs c,
        exec (if p = 0 then .procP0 else if p = 1 then .procP1 else .procP2) ⟨c, r⟩ = .next ⟨c, t⟩ ∧
        t.filt.cq = r.filt.cq.set p.val w ∧ t.filt.cx = r.filt.cx) ∧
    (r.filt.k = 4 * s.val + 3 →
      r.coefRead (s.val * 2 ^ (c.P + 2) + r.filt.lat[s].profile.toNat * 4 + 3) = some w →
      ∃ t : Regs c, exec .procP3 ⟨c, r⟩ = .next ⟨c, t⟩ ∧
        t.filt.cx = #v[r.filt.cq[0], r.filt.cq[1], r.filt.cq[2], w] ∧ t.filt.cq = r.filt.cq)

/-- R207, R209: phases 0, 1 and 2 of the computed channel `ch` (slot `ch + 1`): the state words they
read into `SD`, the accumulator they clear and accumulate, `YO`. -/
def Obligations.ComputePhasesAccumulate : Prop :=
  ∀ (c : Config) (r : Regs c) (ch : Fin c.nCh) (v : BitVec c.S),
    (r.filt.k = 4 * (ch.val + 1) →
      r.stRead (r.filt.lat[ch].profile.toNat * 2 ^ c.C + ch.val) = some v →
      ∃ t : Regs c, exec .procP0 ⟨c, r⟩ = .next ⟨c, t⟩ ∧ t.filt.sd = v ∧ t.filt.acc = 0 ∧
        t.filt.yo = r.filt.yo ∧ t.sm = r.sm ∧ t.filt.k = r.filt.k + 1) ∧
    (r.filt.k = 4 * (ch.val + 1) + 1 →
      r.stRead (2 ^ c.P * 2 ^ c.C + (cfgSel c (r.fld .cfg)).toNat) = some v →
      ∃ t : Regs c, exec .procP1 ⟨c, r⟩ = .next ⟨c, t⟩ ∧ t.filt.sd = v ∧ t.filt.yo = r.filt.sd ∧
        t.filt.acc = BitVec.ofInt c.A
          (r.filt.acc.toInt + (0 - r.filt.sd.toInt) * (r.fld .a1).toInt) ∧
        t.sm = r.sm ∧ t.filt.k = r.filt.k + 1) ∧
    (r.filt.k = 4 * (ch.val + 1) + 2 →
      r.stRead ((2 ^ c.P + 1) * 2 ^ c.C + (cfgSel c (r.fld .cfg)).toNat) = some v →
      ∃ t : Regs c, exec .procP2 ⟨c, r⟩ = .next ⟨c, t⟩ ∧ t.filt.sd = v ∧ t.filt.yo = r.filt.yo ∧
        t.filt.acc = BitVec.ofInt c.A (r.filt.acc.toInt +
          (widenOffset c (r.fld .offset) - r.filt.sd.toInt) * (r.fld .b0).toInt) ∧
        t.sm = r.sm ∧ t.filt.k = r.filt.k + 1)

/-- R213, R214: at `PROC_P3` of channel `ch` the clipped sum is written to `sm_y1(ch,
LAT[ch].profile)` when `en_iir`, `en_out` and `dly ≥ delay`, and no other word of `SM` is; else
nothing is written. R211, R53: the `clip` indication of the sum is put out, and no other output of the
tick changes. -/
def Obligations.ProcP3WritesBackThroughTheGate : Prop :=
  ∀ (c : Config) (r : Regs c) (ch : Fin c.nCh),
    r.filt.k = 4 * (ch.val + 1) + 3 → r.sm.wf c.memInit = true →
    ∃ t : Regs c, exec .procP3 ⟨c, r⟩ = .next ⟨c, t⟩ ∧
      t.filt.acc = mac c r.filt.acc (widenOffset c (r.fld .offset)) r.filt.sd (r.fld .b1) ∧
      t.outs = { r.outs with clip := some (clips c t.filt.acc) } ∧
      (r.filt.lat[ch].enIir = true ∧ r.filt.lat[ch].enOut = true ∧
          (cfgDelay c (r.fld .cfg)).toNat ≤ r.filt.dly[ch].toNat →
        ∀ a, t.stRead a =
          if a = r.filt.lat[ch].profile.toNat * 2 ^ c.C + ch.val then some (clip c t.filt.acc)
          else r.stRead a) ∧
      (¬ (r.filt.lat[ch].enIir = true ∧ r.filt.lat[ch].enOut = true ∧
          (cfgDelay c (r.fld .cfg)).toNat ≤ r.filt.dly[ch].toNat) → t.sm = r.sm)

/-- R216, R217: at `PROC_P3` of channel `ch` its output buffer entry takes the low `WD` bits of
`ftw0`, `ftw1`, `pow` and, as amplitude, bits `[S-2 : S-1-asf]` of the value written back or, with
the gate closed, of the stored `y1`; no other channel's entry changes. -/
def Obligations.ProcP3FillsTheOutputBuffer : Prop :=
  ∀ (c : Config) (r : Regs c) (ch : Fin c.nCh), r.filt.k = 4 * (ch.val + 1) + 3 →
    ∃ t : Regs c, exec .procP3 ⟨c, r⟩ = .next ⟨c, t⟩ ∧
      t.filt.ob[ch].ftw0 = (r.fld .ftw0).setWidth c.WD ∧
      t.filt.ob[ch].ftw1 = (r.fld .ftw1).setWidth c.WD ∧
      t.filt.ob[ch].pow = (r.fld .pow).setWidth c.WD ∧
      t.filt.ob[ch].asf =
        (if r.filt.lat[ch].enIir = true ∧ r.filt.lat[ch].enOut = true ∧
            (cfgDelay c (r.fld .cfg)).toNat ≤ r.filt.dly[ch].toNat
          then clip c t.filt.acc else r.filt.yo).extractLsb' (c.S - 1 - c.ASF) c.ASF ∧
      ∀ d : Fin c.nCh, d ≠ ch → t.filt.ob[d] = r.filt.ob[d]

/-- R215: at `PROC_P3` of channel `ch` its delay counter clears with `en_out = 0`, counts up below
the threshold, else holds, and cannot wrap; no other channel's counter changes. -/
def Obligations.ProcP3UpdatesTheDelayCounter : Prop :=
  ∀ (c : Config) (r : Regs c) (ch : Fin c.nCh), r.filt.k = 4 * (ch.val + 1) + 3 →
    ∃ t : Regs c, exec .procP3 ⟨c, r⟩ = .next ⟨c, t⟩ ∧
      t.filt.dly[ch].toNat =
        (if r.filt.lat[ch].enOut = false then 0
         else if r.filt.dly[ch].toNat < (cfgDelay c (r.fld .cfg)).toNat
           then r.filt.dly[ch].toNat + 1
         else r.filt.dly[ch].toNat) ∧
      ∀ d : Fin c.nCh, d ≠ ch → t.filt.dly[d] = r.filt.dly[d]

/-- R211: the saturation: the shifted sum is the floor of its quotient by `2^SH`, clamped to `[0,
2^(S-1) - 1]`, and the `clip` indication is 1 exactly when the clamp acts. -/
def Obligations.ClipSaturatesAndNeverWraps : Prop :=
  ∀ (c : Config) (sum : BitVec c.A), 1 ≤ c.S →
    (clip c sum).toInt = max 0 (min (sum.toInt / 2 ^ c.SH) (2 ^ (c.S - 1) - 1)) ∧
    (clips c sum = true ↔
      sum.toInt / 2 ^ c.SH < 0 ∨ 2 ^ (c.S - 1) - 1 < sum.toInt / 2 ^ c.SH)

/-- R210: in a checked configuration (CF1) the three accumulations of a channel are exact: the
accumulator holds the mathematical sum. -/
def Obligations.AccumulatorNeverWraps : Prop :=
  ∀ (c : Config) (y x0 x1 : BitVec c.S) (a1 b0 b1 off : BitVec c.K), c.valid = true →
    (mac c (mac c (mac c 0 0 y a1) (widenOffset c off) x0 b0) (widenOffset c off) x1 b1).toInt =
      (0 - y.toInt) * a1.toInt + (widenOffset c off - x0.toInt) * b0.toInt +
        (widenOffset c off - x1.toInt) * b1.toInt

/-- R218: what the four phases of a channel's slot compute together: the filter output from `y1`,
`x0`, `x1` and the coefficients in `CX`, written back if the gate is open, the output buffer entry
and the delay counter. -/
def Obligations.ChannelSlotComputesTheFilter : Prop :=
  ∀ (c : Config) (r : Regs c) (ch : Fin c.nCh) (y1 x0 x1 : BitVec c.S),
    c.valid = true → r.filt.k = 4 * (ch.val + 1) → r.sm.wf c.memInit = true →
    r.stRead (r.filt.lat[ch].profile.toNat * 2 ^ c.C + ch.val) = some y1 →
    r.stRead (2 ^ c.P * 2 ^ c.C + (cfgSel c (r.fld .cfg)).toNat) = some x0 →
    r.stRead ((2 ^ c.P + 1) * 2 ^ c.C + (cfgSel c (r.fld .cfg)).toNat) = some x1 →
    ∃ (r1 r2 r3 t : Regs c) (y : BitVec c.S),
      exec .procP0 ⟨c, r⟩ = .next ⟨c, r1⟩ ∧ exec .procP1 ⟨c, r1⟩ = .next ⟨c, r2⟩ ∧
      exec .procP2 ⟨c, r2⟩ = .next ⟨c, r3⟩ ∧ exec .procP3 ⟨c, r3⟩ = .next ⟨c, t⟩ ∧
      y.toInt = max 0 (min
        (((r.fld .a1).toInt * (0 - y1.toInt) +
          (r.fld .b0).toInt * ((r.fld .offset).toInt * 2 ^ c.offsetAlign - x0.toInt) +
          (r.fld .b1).toInt * ((r.fld .offset).toInt * 2 ^ c.offsetAlign - x1.toInt)) / 2 ^ c.SH)
        (2 ^ (c.S - 1) - 1)) ∧
      (∀ a, t.stRead a =
        if a = r.filt.lat[ch].profile.toNat * 2 ^ c.C + ch.val then
          some (if gateOpen r.filt.lat[ch] r.filt.dly[ch] (cfgDelay c (r.fld .cfg)) then y else y1)
        else r.stRead a) ∧
      t.filt.ob[ch] = OutWord.mk (outField c (r.fld .ftw0)) (outField c (r.fld .ftw1))
        (outField c (r.fld .pow)) (amplitude c
          (if gateOpen r.filt.lat[ch] r.filt.dly[ch] (cfgDelay c (r.fld .cfg)) then y else y1)) ∧
      t.filt.dly[ch] =
        nextDly r.filt.lat[ch].enOut r.filt.dly[ch] (cfgDelay c (r.fld .cfg))

/-- R222: `SHIFT_RD` of channel `i` loads `SD` from `sm_x0(i)`, and `SHIFT_WR` stores `SD` to
`sm_x1(i)` and no other word; after the last channel the sweep ends (R193); nothing else changes. -/
def Obligations.ShiftCopiesOneSample : Prop :=
  ∀ (c : Config) (r : Regs c) (i : Fin c.nCh), r.filtStart = false → r.filt.state = .shift →
    (∀ v, r.filt.k = 2 * i.val → r.stRead (2 ^ c.P * 2 ^ c.C + i.val) = some v →
      exec .shiftRd ⟨c, r⟩ = .next ⟨c, { r with filt := { r.filt with
        sd := v, k := 2 * i.val + 1 } }⟩) ∧
    (r.filt.k = 2 * i.val + 1 → r.sm.wf c.memInit = true →
      ∃ m : Mem c.S, exec .shiftWr ⟨c, r⟩ = .next ⟨c, { r with
          sm := m
          filt := { r.filt with
            state := if i.val + 1 = c.nCh then .idle else .shift
            k := if i.val + 1 = c.nCh then 0 else 2 * i.val + 2 } }⟩ ∧
        ∀ a, m.read c.memInit a =
          if a = (2 ^ c.P + 1) * 2 ^ c.C + i.val then some r.filt.sd else r.stRead a)

/-- R98, R223 for one channel: in two ticks of SHIFT without a host operation and without a fault,
`sm_x1(i)` takes the value of `sm_x0(i)`, which stays. -/
def Obligations.ShiftAgesASampleInTwoTicks : Prop :=
  ∀ (c : Config) (r t : Regs c) (i : Fin c.nCh) (v : BitVec c.S),
    r.filt.state = .shift → r.filt.k = 2 * i.val → r.faults = [] → r.script = [] →
    r.sm.wf c.memInit = true → r.stRead (2 ^ c.P * 2 ^ c.C + i.val) = some v →
    Sys2Proof.core.run 2 ⟨c, r⟩ = .next ⟨c, t⟩ → t.faults = [] →
    t.stRead ((2 ^ c.P + 1) * 2 ^ c.C + i.val) = some v ∧
    t.stRead (2 ^ c.P * 2 ^ c.C + i.val) = some v

/-- R375, R366: an engine read of a word no write has defined records `F_UNINIT_READ` with the memory
and the address, the register it feeds is not loaded, and the rest of the tick takes place: the state
reads of `PROC_P0` (`y1`), `PROC_P1` (`x0`), `PROC_P2` (`x1`) and `SHIFT_RD` (`x0`), and the fetches of
words 0, 1, 2 (`CQ`) and 3 (`CX`). Which registers stay is the model's reading of "reads that raise a
fault return no value" (log entry 15). -/
def Obligations.EngineReadOfUndefinedWordIsRecorded : Prop :=
  ∀ (c : Config) (r : Regs c),
    (∀ (ch : Fin c.nCh) (a : Nat), r.filt.k = 4 * (ch.val + 1) →
      a = r.filt.lat[ch].profile.toNat * 2 ^ c.C + ch.val → r.stRead a = none →
      ∃ t : Regs c, exec .procP0 ⟨c, r⟩ = .next ⟨c, t⟩ ∧ t.filt.sd = r.filt.sd ∧
        t.filt.acc = 0 ∧ t.filt.k = r.filt.k + 1 ∧
        FaultRec.mk .uninitRead r.now (.mem .sm a) ∈ t.faults) ∧
    (∀ (ch : Fin c.nCh) (a : Nat), r.filt.k = 4 * (ch.val + 1) + 1 →
      a = 2 ^ c.P * 2 ^ c.C + (cfgSel c (r.fld .cfg)).toNat → r.stRead a = none →
      ∃ t : Regs c, exec .procP1 ⟨c, r⟩ = .next ⟨c, t⟩ ∧ t.filt.sd = r.filt.sd ∧
        t.filt.yo = r.filt.sd ∧ t.filt.acc = mac c r.filt.acc 0 r.filt.sd (r.fld .a1) ∧
        t.filt.k = r.filt.k + 1 ∧ FaultRec.mk .uninitRead r.now (.mem .sm a) ∈ t.faults) ∧
    (∀ (ch : Fin c.nCh) (a : Nat), r.filt.k = 4 * (ch.val + 1) + 2 →
      a = (2 ^ c.P + 1) * 2 ^ c.C + (cfgSel c (r.fld .cfg)).toNat → r.stRead a = none →
      ∃ t : Regs c, exec .procP2 ⟨c, r⟩ = .next ⟨c, t⟩ ∧ t.filt.sd = r.filt.sd ∧
        t.filt.acc = mac c r.filt.acc (widenOffset c (r.fld .offset)) r.filt.sd (r.fld .b0) ∧
        t.filt.k = r.filt.k + 1 ∧ FaultRec.mk .uninitRead r.now (.mem .sm a) ∈ t.faults) ∧
    (∀ (i : Fin c.nCh) (a : Nat), r.filt.k = 2 * i.val → a = 2 ^ c.P * 2 ^ c.C + i.val →
      r.stRead a = none →
      ∃ t : Regs c, exec .shiftRd ⟨c, r⟩ = .next ⟨c, t⟩ ∧ t.filt.sd = r.filt.sd ∧
        t.filt.k = r.filt.k + 1 ∧ FaultRec.mk .uninitRead r.now (.mem .sm a) ∈ t.faults) ∧
    (∀ (s : Fin c.nCh) (p : Fin 3) (a : Nat), r.filt.k = 4 * s.val + p.val →
      a = s.val * 2 ^ (c.P + 2) + r.filt.lat[s].profile.toNat * 4 + p.val → r.coefRead a = none →
      ∃ t : Regs c,
        exec (if p = 0 then .procP0 else if p = 1 then .procP1 else .procP2) ⟨c, r⟩ = .next ⟨c, t⟩ ∧
        t.filt.cq = r.filt.cq ∧ t.filt.cx = r.filt.cx ∧ t.filt.k = r.filt.k + 1 ∧
        FaultRec.mk .uninitRead r.now (.mem .cm a) ∈ t.faults) ∧
    (∀ (s : Fin c.nCh) (a : Nat), r.filt.k = 4 * s.val + 3 →
      a = s.val * 2 ^ (c.P + 2) + r.filt.lat[s].profile.toNat * 4 + 3 → r.coefRead a = none →
      ∃ t : Regs c, exec .procP3 ⟨c, r⟩ = .next ⟨c, t⟩ ∧ t.filt.cx = r.filt.cx ∧
        t.filt.cq = r.filt.cq ∧ t.filt.k = r.filt.k + 1 ∧
        FaultRec.mk .uninitRead r.now (.mem .cm a) ∈ t.faults)

/-- What the engine's micro-operations leave unchanged (R88, R190, R191, R205, R206, R213, R214):
everything outside the FilterEngine but `SM`, `FAULTS` and the tick's `clip`; the records already in
`FAULTS`; the latch but at a start; the delay counters and the output buffer but the computed channel's
at `PROC_P3`; `SX`, `YO`, `CX`, `CQ`, `acc` and `SD` but at the micro-operations that load them; of `SM`
every word but the one `LOAD_WR`, `PROC_P3` or `SHIFT_WR` stores to, and all of it where `PROC_P3` stores
nothing (slot 0, or the gate closed). Slot 0 only fetches: it leaves `SD`, `acc`, `YO`, the output
buffer, the delay counters, `SM` and the outputs. Slot `N_ch` only computes: it leaves `CQ` and `CX`. -/
def Obligations.EngineFrame : Prop :=
  ∀ (c : Config) (r t : Regs c),
    ∀ i ∈ [Instr.idleWait, .loadSx, .loadWr, .procP0, .procP1, .procP2, .procP3, .shiftRd, .shiftWr],
    exec i ⟨c, r⟩ = .next ⟨c, t⟩ → r.sm.wf c.memInit = true →
    t.ctrl = r.ctrl ∧ t.cm = r.cm ∧ t.acq = r.acq ∧ t.out = r.out ∧ t.sched = r.sched ∧
    t.now = r.now ∧ t.inp = r.inp ∧ t.script = r.script ∧ t.draws = r.draws ∧
    t.outs = { r.outs with clip := t.outs.clip } ∧ (∀ f ∈ r.faults, f ∈ t.faults) ∧
    (i ≠ .idleWait → t.filt.lat = r.filt.lat) ∧
    (i ≠ .procP3 → t.filt.dly = r.filt.dly ∧ t.filt.ob = r.filt.ob ∧ t.outs = r.outs) ∧
    (∀ ch : Fin c.nCh, ch ≠ r.calcChan →
      t.filt.dly[ch] = r.filt.dly[ch] ∧ t.filt.ob[ch] = r.filt.ob[ch]) ∧
    (i ≠ .loadSx → t.filt.sx = r.filt.sx) ∧
    (i ≠ .procP1 → t.filt.yo = r.filt.yo) ∧
    (i ≠ .procP3 → t.filt.cx = r.filt.cx) ∧
    (i ∉ [Instr.procP0, .procP1, .procP2] → t.filt.cq = r.filt.cq) ∧
    (i ∉ [Instr.procP0, .procP1, .procP2, .procP3] → t.filt.acc = r.filt.acc) ∧
    (i ∉ [Instr.procP0, .procP1, .procP2, .shiftRd] → t.filt.sd = r.filt.sd) ∧
    (i ∉ [Instr.loadWr, .procP3, .shiftWr] → ∀ a, t.stRead a = r.stRead a) ∧
    (i = .loadWr → ∀ a, a ≠ smX0 c r.walkChan.val → t.stRead a = r.stRead a) ∧
    (i = .shiftWr → ∀ a, a ≠ smX1 c r.walkChan.val → t.stRead a = r.stRead a) ∧
    (i = .procP3 → ∀ a, (a = r.calcY1 → r.calculates = false ∨ r.gate = false) →
      t.stRead a = r.stRead a) ∧
    (i ∈ [Instr.procP0, .procP1, .procP2, .procP3] → r.filt.k < 4 →
      t.filt.sd = r.filt.sd ∧ t.filt.acc = r.filt.acc ∧ t.filt.yo = r.filt.yo ∧
      t.filt.ob = r.filt.ob ∧ t.filt.dly = r.filt.dly ∧ t.sm = r.sm ∧ t.outs = r.outs) ∧
    (i ∈ [Instr.procP0, .procP1, .procP2, .procP3] → 4 * c.nCh ≤ r.filt.k →
      t.filt.cq = r.filt.cq ∧ t.filt.cx = r.filt.cx)

/-! ## OutputAssembler -/

/-- R262: `OUT_START` latches every channel's frame on a start and becomes busy for
`t_output - 1` ticks; else the output registers keep their values; nothing else changes but the delay
line and the tick's outputs. -/
def Obligations.OutStartLatchesTheFrames : Prop :=
  ∀ (c : Config) (r : Regs c),
    ∃ (dl : BitVec (c.updDelay + 1)) (outs : TickOut c) (fr : Vector (BitVec c.OW) c.nCh),
      exec .outStart ⟨c, r⟩ = .next ⟨c, { r with
        out := (if r.outStart then OutRegs.mk true (c.tOutput - 2) fr dl
          else { r.out with dl := dl })
        outs := outs }⟩ ∧
      ∀ ch : Fin c.nCh, fr[ch] = frame c r.filt.ob[ch]

/-- R263: `OUT_BUSY` counts down, on 0 becomes idle, and records a start that arrives; nothing else
changes but the delay line and the tick's outputs. -/
def Obligations.OutBusyCountsDown : Prop :=
  ∀ (c : Config) (r : Regs c),
    ∃ (dl : BitVec (c.updDelay + 1)) (outs : TickOut c),
      exec .outBusy ⟨c, r⟩ = .next ⟨c, { r with
        out := (if r.out.cnt = 0 then { r.out with busy := false, dl := dl }
          else { r.out with cnt := r.out.cnt - 1, dl := dl })
        faults := (if r.outStart then addFault r.faults ⟨.startBusyOut, r.now, .none⟩ else r.faults)
        outs := outs }⟩

/-- R266: every tick of the output stage the delay line takes `o_done` at `DL[0]` and shifts. -/
def Obligations.DelayLineTakesODone : Prop :=
  ∀ (c : Config) (r : Regs c), ∀ i ∈ [Instr.outStart, .outBusy],
    ∃ t : Regs c, exec i ⟨c, r⟩ = .next ⟨c, t⟩ ∧ t.out.dl.getLsbD 0 = !r.out.busy ∧
      ∀ j, 1 ≤ j → j ≤ c.updDelay → t.out.dl.getLsbD j = r.out.dl.getLsbD (j - 1)

/-- R265, R268: the strobe of a tick is the rising edge of `o_done` delayed by `UPD_DELAY` ticks, and
the frames are delivered in the tick `o_done` rises. -/
def Obligations.StrobeAndDeliveryFollowODone : Prop :=
  ∀ (c : Config) (r : Regs c), ∀ i ∈ [Instr.outStart, .outBusy],
    ∃ t : Regs c, exec i ⟨c, r⟩ = .next ⟨c, t⟩ ∧
      (t.outs.ioUpdate = true ↔
        (if c.updDelay = 0 then r.out.busy = false else r.out.dl.getLsbD (c.updDelay - 1) = true) ∧
        r.out.dl.getLsbD c.updDelay = false) ∧
      t.outs.delivered =
        (if r.out.busy = false ∧ r.out.dl.getLsbD 0 = false then some r.out.fr else none)

/-- R120, R261: the frame is the command byte, the zero-extended amplitude, `pow`, `ftw1`, `ftw0`,
most significant first, in a checked configuration (CF6). -/
def Obligations.FrameHoldsItsFiveFields : Prop :=
  ∀ (c : Config) (o : OutWord c), c.valid = true →
    (frame c o).toNat = c.cmdByte.toNat * 2 ^ (4 * c.WD) + o.asf.toNat * 2 ^ (3 * c.WD) +
      o.pow.toNat * 2 ^ (2 * c.WD) + o.ftw1.toNat * 2 ^ c.WD + o.ftw0.toNat

/-! ## Host operations -/

/-- R322: `set_coefficient` (each of the eight fields) writes `trunc_K(v)` to one half of one word of
`CM` and changes nothing else, when the pair is not one the sweep in PROCESS reads. -/
def Obligations.SetCoefficientWritesOneHalf : Prop :=
  ∀ (c : Config) (r : Regs c) (f : CoeffField) (ch : Fin c.nCh) (prof : Nat) (v : Int),
    prof < 2 ^ c.P → ¬ (r.filt.state = .process ∧ prof = r.filt.lat[ch].profile.toNat) →
    r.cm.wf c.memInit = true →
    ∃ m : Mem c.K, exec (Instr.setCoeff f ch.val prof v) ⟨c, r⟩ = .next ⟨c, { r with cm := m }⟩ ∧
      ∀ addr high, m.read c.memInit (cmCell addr high) =
        if addr = ch.val * 2 ^ (c.P + 2) + prof * 4 + (c.idx f).toNat / 2 ∧
            high = decide ((c.idx f).toNat % 2 = 1)
        then some (BitVec.ofInt c.K v) else r.cmHalf addr high

/-- R370: `set_coefficient` to a pair the sweep in PROCESS reads records the fault with `(c, p, f)`
and makes no write. -/
def Obligations.SetCoefficientOfAnActivePairIsRecorded : Prop :=
  ∀ (c : Config) (r : Regs c) (f : CoeffField) (ch : Fin c.nCh) (prof : Nat) (v : Int),
    r.filt.state = .process → prof = r.filt.lat[ch].profile.toNat →
    exec (Instr.setCoeff f ch.val prof v) ⟨c, r⟩ = .next ⟨c, { r with
      faults := addFault r.faults ⟨.coeffWriteActive, r.now, .coeff ch.val prof f⟩ }⟩

/-- R323: `get_coefficient` (each of the eight fields) puts out the raw bits of the field's half, in
every engine state, and changes nothing else. -/
def Obligations.GetCoefficientReturnsTheHalf : Prop :=
  ∀ (c : Config) (r : Regs c) (f : CoeffField) (ch : Fin c.nCh) (prof : Nat) (v : BitVec c.K),
    prof < 2 ^ c.P →
    r.cmHalf (ch.val * 2 ^ (c.P + 2) + prof * 4 + (c.idx f).toNat / 2)
      (decide ((c.idx f).toNat % 2 = 1)) = some v →
    exec (Instr.getCoeff f ch.val prof) ⟨c, r⟩ = .next ⟨c, { r with
      outs := { r.outs with hrd := some (.coeff v) } }⟩

/-- R324: a `set_coefficient` and, in the next tick, a `get_coefficient` of the same field returns
`v & mask`, in a run without a fault; and the set leaves every other field of the pair as it was. -/
def Obligations.CoefficientRoundTrip : Prop :=
  ∀ (c : Config) (r t : Regs c) (i1 i2 : TickInput c) (rest : List (Event c)) (f : CoeffField)
    (ch prof : Nat) (v : Int),
    c.valid = true → r.faults = [] → r.cm.wf c.memInit = true →
    r.script = .tick i1 :: .tick i2 :: rest →
    i1.op = some (.call (.setCoeff ch prof f v)) → i2.op = some (.call (.getCoeff ch prof f)) →
    step ⟨c, r⟩ = .next ⟨c, t⟩ → t.faults = [] →
    (∃ u : Regs c, step ⟨c, t⟩ = .next ⟨c, u⟩ ∧
      u.outs.hrd = some (.coeff (BitVec.ofInt c.K v))) ∧
    ∀ g, g ≠ f → t.cmHalf (cmAddr c ch prof (wordOf (c.idx g))) (isHigh (c.idx g)) =
      r.cmHalf (cmAddr c ch prof (wordOf (c.idx g))) (isHigh (c.idx g))

/-- R85, R328: `set_state` of `y1`, `x0` or `x1` writes `trunc_S(v)` to its word of `SM` and changes
nothing else, in a tick in which the engine does not write `SM`. -/
def Obligations.SetStateWritesOneWord : Prop :=
  ∀ (c : Config) (r : Regs c) (ch : Fin c.nCh) (prof : Nat) (v : Int),
    prof < 2 ^ c.P → r.engineWritesSm = false → r.sm.wf c.memInit = true →
    (∃ m : Mem c.S, exec (.setStateY1 ch.val prof v) ⟨c, r⟩ = .next ⟨c, { r with sm := m }⟩ ∧
      ∀ a, m.read c.memInit a =
        if a = prof * 2 ^ c.C + ch.val then some (BitVec.ofInt c.S v) else r.stRead a) ∧
    (∃ m : Mem c.S, exec (.setStateX0 ch.val v) ⟨c, r⟩ = .next ⟨c, { r with sm := m }⟩ ∧
      ∀ a, m.read c.memInit a =
        if a = 2 ^ c.P * 2 ^ c.C + ch.val then some (BitVec.ofInt c.S v) else r.stRead a) ∧
    (∃ m : Mem c.S, exec (.setStateX1 ch.val v) ⟨c, r⟩ = .next ⟨c, { r with sm := m }⟩ ∧
      ∀ a, m.read c.memInit a =
        if a = (2 ^ c.P + 1) * 2 ^ c.C + ch.val then some (BitVec.ofInt c.S v) else r.stRead a)

/-- R372: `set_state` in a tick in which the engine writes `SM` (`LOAD_WR`, `SHIFT_WR`, `PROC_P3`
with the gate open), whatever the address, records the fault with `(c, p, kind)` and makes no
write. -/
def Obligations.SetStateConflictIsRecorded : Prop :=
  ∀ (c : Config) (r : Regs c) (w : StateRef) (v : Int), refOk c w = true →
    ((r.filt.state = .load ∨ r.filt.state = .shift) ∧ r.filt.k % 2 = 1 ∨
      r.filt.state = .process ∧ ∃ ch : Fin c.nCh, r.filt.k = 4 * (ch.val + 1) + 3 ∧
        r.filt.lat[ch].enIir = true ∧ r.filt.lat[ch].enOut = true ∧
        (cfgDelay c (r.fld .cfg)).toNat ≤ r.filt.dly[ch].toNat) →
    exec (Instr.setState w v) ⟨c, r⟩ = .next ⟨c, { r with
      faults := addFault r.faults ⟨.stateWriteConflict, r.now, .state w⟩ }⟩

/-- R329: `get_state` of `y1`, `x0` or `x1`, outside LOAD and SHIFT, puts out the raw bits of the word
and changes nothing else. -/
def Obligations.GetStateReturnsTheWord : Prop :=
  ∀ (c : Config) (r : Regs c) (ch : Fin c.nCh) (prof : Nat) (v : BitVec c.S),
    prof < 2 ^ c.P → r.filt.state ≠ .load → r.filt.state ≠ .shift →
    (r.stRead (prof * 2 ^ c.C + ch.val) = some v →
      exec (.getStateY1 ch.val prof) ⟨c, r⟩ = .next ⟨c, { r with
        outs := { r.outs with hrd := some (.state v) } }⟩) ∧
    (r.stRead (2 ^ c.P * 2 ^ c.C + ch.val) = some v →
      exec (.getStateX0 ch.val) ⟨c, r⟩ = .next ⟨c, { r with
        outs := { r.outs with hrd := some (.state v) } }⟩) ∧
    (r.stRead ((2 ^ c.P + 1) * 2 ^ c.C + ch.val) = some v →
      exec (.getStateX1 ch.val) ⟨c, r⟩ = .next ⟨c, { r with
        outs := { r.outs with hrd := some (.state v) } }⟩)

/-- R371, R379: `get_state` in LOAD or SHIFT records `F_STATE_READ_BUSY` alone with `(c, p, kind)`,
even of a word no write has defined, and returns no value. -/
def Obligations.GetStateWhileBusyIsRecorded : Prop :=
  ∀ (c : Config) (r : Regs c) (w : StateRef), refOk c w = true →
    (r.filt.state = .load ∨ r.filt.state = .shift) →
    exec (Instr.getState w) ⟨c, r⟩ = .next ⟨c, { r with
      faults := addFault r.faults ⟨.stateReadBusy, r.now, .state w⟩
      outs := { r.outs with hrd := none } }⟩

/-- R330: a `set_state` and, in the next tick, a `get_state` of the same word returns `v & (2^S - 1)`,
in a run without a fault whose second tick is outside LOAD and SHIFT (R371). -/
def Obligations.StateRoundTrip : Prop :=
  ∀ (c : Config) (r t : Regs c) (i1 i2 : TickInput c) (rest : List (Event c)) (w : StateRef) (v : Int),
    c.valid = true → r.faults = [] → r.sm.wf c.memInit = true →
    r.script = .tick i1 :: .tick i2 :: rest →
    i1.op = some (.call (.setState w v)) → i2.op = some (.call (.getState w)) →
    step ⟨c, r⟩ = .next ⟨c, t⟩ → t.faults = [] → t.filt.state ≠ .load → t.filt.state ≠ .shift →
    ∃ u : Regs c, step ⟨c, t⟩ = .next ⟨c, u⟩ ∧ u.outs.hrd = some (.state (BitVec.ofInt c.S v))

/-- R335, R373: `set_ctrl` writes the channel's record and nothing else while the filter is IDLE; else
it records the fault with the channel and writes nothing. -/
def Obligations.SetCtrlWritesOnlyBetweenSweeps : Prop :=
  ∀ (c : Config) (r : Regs c) (ch : Fin c.nCh) (prof : BitVec c.P) (enOut enIir : Bool),
    (r.filt.state = .idle → exec (.setCtrl ch.val prof.toNat enOut enIir) ⟨c, r⟩ = .next ⟨c, { r with
      ctrl := r.ctrl.set ch.val (ChanCtl.mk prof enOut enIir) }⟩) ∧
    (r.filt.state ≠ .idle → exec (.setCtrl ch.val prof.toNat enOut enIir) ⟨c, r⟩ = .next ⟨c, { r with
      faults := addFault r.faults ⟨.ctrlWriteBusy, r.now, .chan ch.val⟩ }⟩)

/-- R375: a host get of a half or word no write has defined records `F_UNINIT_READ` with the memory
and the address, and returns no value. -/
def Obligations.HostGetOfUndefinedMemoryIsRecorded : Prop :=
  ∀ (c : Config) (r : Regs c) (ch : Fin c.nCh) (prof : Nat), prof < 2 ^ c.P →
    (∀ f, r.cmHalf (cmAddr c ch.val prof (wordOf (c.idx f))) (isHigh (c.idx f)) = none →
      exec (Instr.getCoeff f ch.val prof) ⟨c, r⟩ = .next ⟨c, { r with
        faults := addFault r.faults
          ⟨.uninitRead, r.now, .mem .cm (cmAddr c ch.val prof (wordOf (c.idx f)))⟩
        outs := { r.outs with hrd := none } }⟩) ∧
    (∀ w, refOk c w = true → r.filt.state ≠ .load → r.filt.state ≠ .shift →
      r.stRead (smAddr c w) = none →
      exec (Instr.getState w) ⟨c, r⟩ = .next ⟨c, { r with
        faults := addFault r.faults ⟨.uninitRead, r.now, .mem .sm (smAddr c w)⟩
        outs := { r.outs with hrd := none } }⟩)

/-- R376: a host operation with a channel or profile outside its range records `F_HOST_BAD_OP` and has
no other effect but that a get returns no value. So does a tick with a call by name whose field name is
none of R321's eight, or whose kind with its profile is none of `y1` with a profile, `x0` and `x1`
without one: it leaves what the tick without a host operation leaves. The number recorded for an operand
that fits no selector, and the call recorded for an unknown name, are the model's choice (log entry
14). -/
def Obligations.OperandOutOfRangeIsRecorded : Prop :=
  (∀ (c : Config) (r : Regs c) (h : HostCall), h.instr.wellFormed c = false →
    ∃ (n : Nat) (hrd : Option (HostData c)),
      exec h.instr ⟨c, r⟩ = .next ⟨c, { r with
        faults := addFault r.faults ⟨.hostBadOp, r.now, .selector n⟩
        outs := { r.outs with hrd := hrd } }⟩ ∧
      (hrd = r.outs.hrd ∨ hrd = none)) ∧
  (∀ (c : Config) (r : Regs c) (inp : TickInput c) (rest : List (Event c)) (n : NamedCall),
    c.valid = true → r.faults = [] →
    (match n with
      | .setCoeff _ _ name _ => ∀ f, name ≠ fieldName f
      | .getCoeff _ _ name => ∀ f, name ≠ fieldName f
      | .setState _ prof kind _ => ¬ (kind = ['y', '1'] ∧ prof ≠ none ∨
          (kind = ['x', '0'] ∨ kind = ['x', '1']) ∧ prof = none)
      | .getState _ prof kind => ¬ (kind = ['y', '1'] ∧ prof ≠ none ∨
          (kind = ['x', '0'] ∨ kind = ['x', '1']) ∧ prof = none)) →
    ∃ t u : Regs c,
      step ⟨c, { r with script := .tick { inp with op := some (.named n) } :: rest }⟩ = .next ⟨c, t⟩ ∧
      step ⟨c, { r with script := .tick { inp with op := none } :: rest }⟩ = .next ⟨c, u⟩ ∧
      FaultRec.mk .hostBadOp r.now (.call n) ∈ t.faults ∧ t.outs.hrd = none ∧
      { t with faults := u.faults, inp := u.inp } = u)

/-- R337, R118: a tick with an illegal selector records `F_HOST_BAD_OP` with the selector and has no
other effect: it leaves what the tick without a host operation leaves. -/
def Obligations.IllegalSelectorHasNoOtherEffect : Prop :=
  ∀ (c : Config) (r : Regs c) (inp : TickInput c) (rest : List (Event c)) (sel : BitVec c.selW)
    (v : Int) (e : DecodeError),
    c.valid = true → r.faults = [] → decode c (.hostop sel v) = .error e →
    ∃ t u : Regs c,
      step ⟨c, { r with script := .tick { inp with op := some (.word sel v) } :: rest }⟩ =
        .next ⟨c, t⟩ ∧
      step ⟨c, { r with script := .tick { inp with op := none } :: rest }⟩ = .next ⟨c, u⟩ ∧
      FaultRec.mk .hostBadOp r.now (.selector sel.toNat) ∈ t.faults ∧
      t.ctrl = r.ctrl ∧ t.cm = r.cm ∧ t.outs.hrd = none ∧
      { t with faults := u.faults, inp := u.inp } = u

/-! ## Addresses and encodings -/

/-- R82: the coefficient address of a pair's word is `c·2^(P+2) + p·4 + w`, below `2^(C+P+2)`, and no
two (channel, profile, word) share one. -/
def Obligations.CoefficientAddressesAreDistinct : Prop :=
  ∀ (c : Config) (ch ch' : Fin c.nCh) (p p' : Fin (2 ^ c.P)) (w w' : Fin 4),
    cmAddr c ch.val p.val w.val = ch.val * 2 ^ (c.P + 2) + p.val * 4 + w.val ∧
    cmAddr c ch.val p.val w.val < cmWords c ∧
    (cmAddr c ch.val p.val w.val = cmAddr c ch'.val p'.val w'.val → ch = ch' ∧ p = p' ∧ w = w')

/-- R85: the three kinds of state words lie at `(p << C) | c`, `(2^P << C) | ch` and
`((2^P + 1) << C) | ch`, and "every address in `[0, 2^(P+C) + 2^(C+1))` belongs to exactly one entry;
none is reserved." -/
def Obligations.StateAddressesPartitionTheSpace : Prop :=
  ∀ (c : Config),
    (∀ ch prof, ch < c.nCh → smAddr c (.y1 ch prof) = prof * 2 ^ c.C + ch ∧
      smAddr c (.x0 ch) = 2 ^ c.P * 2 ^ c.C + ch ∧
      smAddr c (.x1 ch) = (2 ^ c.P + 1) * 2 ^ c.C + ch) ∧
    (∀ w, refOk c w = true → smAddr c w < 2 ^ (c.P + c.C) + 2 ^ (c.C + 1)) ∧
    (∀ w w', refOk c w = true → refOk c w' = true → smAddr c w = smAddr c w' → w = w') ∧
    (∀ a, a < 2 ^ (c.P + c.C) + 2 ^ (c.C + 1) → ∃ w, refOk c w = true ∧ smAddr c w = a)

/-- R117: for `op ∈ {000, 001}` the bits of `{ch, prof, kind[2:1]}` are exactly `cm_addr`, and
`kind[0]` is `cm_half`. -/
def Obligations.SelectorHoldsTheCoefficientAddress : Prop :=
  ∀ (c : Config) (f : CoeffField) (ch : Fin c.nCh) (p : Fin (2 ^ c.P)) (op : BitVec 3),
    (selector c op ch.val p.val (c.idx f)).extractLsb' 1 (c.C + c.P + 2) =
      BitVec.ofNat (c.C + c.P + 2) (cmAddr c ch.val p.val (wordOf (c.idx f))) ∧
    (selector c op ch.val p.val (c.idx f)).getLsbD 0 = isHigh (c.idx f)

/-- R117, R123, R126: decoding the encoding of a well-formed instruction gives it back, with every
operand, under every configuration whose field indices are distinct (CF9). -/
def Obligations.DecodeOfEncodeIsTheInstruction : Prop :=
  ∀ (c : Config) (i : Instr), c.holds .cf9 = true → i.wellFormed c = true →
    decode c (encode c i) = .ok i

/-- R117, R118: a selector that decodes is the selector of the instruction it decodes to, so no two
selectors mean one instruction, and that instruction is well formed. -/
def Obligations.DecodedSelectorIsTheEncodedOne : Prop :=
  ∀ (c : Config) (sel : BitVec c.selW) (v : Int) (i : Instr), decode c (.hostop sel v) = .ok i →
    i.wellFormed c = true ∧ ∃ v', encode c i = .hostop sel v'

/-- R341, R335, R123, R126: words written out from the spec's tables decode to the instructions they
stand for, and the seven illegal selectors of 95_test_vectors.md are refused. That a word of 4, 3 or 1
bits is read as an ENGINE, ACQ or OUT pattern is the model's choice (log entry 18). -/
def Obligations.TabledWordsDecode : Prop :=
  decodeTableWord 14 0x0328 = some (.setCoeffFtw1 3 5 0) ∧
  decodeTableWord 14 0x0B2D = some (.getCoeffA1 3 5) ∧
  decodeTableWord 14 0x1328 = some (.setStateY1 3 5 0) ∧
  decodeTableWord 14 0x1B02 = some (.getStateX1 3) ∧
  decodeTableWord 14 0x2329 = some (.setCtrl 3 5 false true) ∧
  decodeTableWord 4 0xB = some .procP3 ∧ decodeTableWord 3 4 = some .acqRtt ∧
  decodeTableWord 1 1 = some .outBusy ∧
  decodeTableWord 14 0x2800 = none ∧ decodeTableWord 14 0x3000 = none ∧
  decodeTableWord 14 0x3FFF = none ∧ decodeTableWord 14 0x1003 = none ∧
  decodeTableWord 14 0x1B07 = none ∧ decodeTableWord 14 0x1009 = none ∧
  decodeTableWord 14 0x2004 = none

/-- R362 and the table of 95_test_vectors.md section 7, row by row: the reference configuration passes
every check, and a change named there passes or fails the check named there. The change to `C = 5` is
stated of `C` alone, which also breaks CF4, and of `C` with both channel counts. -/
def Obligations.ConfigurationChecksRefuseTheTabledChanges : Prop :=
  let ref := Config.reference
  let wide := { ref with filt := { ref.filt with channelLog2 := 5 } }
  let wide32 := { wide with
    acq := { ref.acq with channels := 32 }, out := { ref.out with channels := 32 } }
  let lanes8 := { ref with acq := { ref.acq with lanes := 8 } }
  ref.failedChecks = [] ∧
  Config.Check.cf1 ∈ { ref with filt := { ref.filt with accumulator := 45 } }.failedChecks ∧
  { ref with filt := { ref.filt with accumulator := 46 } }.failedChecks = [] ∧
  Config.Check.cf2 ∈ { ref with acq := { ref.acq with lanes := 3 } }.failedChecks ∧
  lanes8.failedChecks = [] ∧ lanes8.tRead = 8 ∧
  Config.Check.cf3 ∈ { ref with acq := { ref.acq with tRtt := 0 } }.failedChecks ∧
  Config.Check.cf4 ∈ { ref with out := { ref.out with channels := 4 } }.failedChecks ∧
  Config.Check.cf5 ∈ wide.failedChecks ∧ wide32.failedChecks = [.cf5] ∧ wide32.tRead = 64 ∧
  wide32.tAcq = 80 ∧ wide32.tFilter = 197 ∧ wide32.tCycle = 197 ∧
  Config.Check.cf6 ∈ { ref with filt := { ref.filt with asf := 17 } }.failedChecks ∧
  Config.Check.cf6 ∈ { ref with filt := { ref.filt with coeff := 15 } }.failedChecks ∧
  { ref with acq := { ref.acq with tConv := 1 } }.failedChecks = [.cf7] ∧
  { ref with acq := { ref.acq with tRtt := 80 } }.failedChecks = [] ∧
  { ref with acq := { ref.acq with tRtt := 120 } }.failedChecks = [.cf8]
end

