-- ==== Sys2Proof/Laws/Decode.lean ====
section
/-! SUPPORT. What each field reader finds in a selector built from its fields, and the field index read
backwards: the decoder's and the encoder's small lemmas. -/

namespace Sys2Proof

variable (c : Config)

/-- The bits of the second part of a concatenation. -/
theorem extractLsb'_append_lo {w v : Nat} (x : BitVec w) (y : BitVec v) : (x ++ y).extractLsb' 0 v = y := by
  ext i h
  rw [BitVec.getElem_extractLsb', BitVec.getLsbD_append, Nat.zero_add, if_pos h,
    BitVec.getLsbD_eq_getElem h]

/-- Bits above the second part of a concatenation are bits of the first. -/
theorem extractLsb'_append_hi {w v : Nat} (x : BitVec w) (y : BitVec v) (s n : Nat) :
    (x ++ y).extractLsb' (v + s) n = x.extractLsb' s n := by
  ext i h
  rw [BitVec.getElem_extractLsb', BitVec.getElem_extractLsb', BitVec.getLsbD_append,
    if_neg (by omega)]
  congr 1
  omega

@[simp] theorem selKind_selector (op : BitVec 3) (ch prof : Nat) (kind : BitVec 3) :
    selKind c (selector c op ch prof kind) = kind := extractLsb'_append_lo _ _

@[simp] theorem selProf_selector (op : BitVec 3) (ch prof : Nat) (kind : BitVec 3) :
    selProf c (selector c op ch prof kind) = BitVec.ofNat c.P prof :=
  (extractLsb'_append_hi _ kind 0 _).trans (extractLsb'_append_lo _ _)

@[simp] theorem selCh_selector (op : BitVec 3) (ch prof : Nat) (kind : BitVec 3) :
    selCh c (selector c op ch prof kind) = BitVec.ofNat c.C ch :=
  (extractLsb'_append_hi _ kind _ _).trans
    ((extractLsb'_append_hi _ _ 0 _).trans (extractLsb'_append_lo _ _))

@[simp] theorem selOp_selector (op : BitVec 3) (ch prof : Nat) (kind : BitVec 3) :
    selOp c (selector c op ch prof kind) = op := by
  unfold selOp selector
  rw [show 3 + c.P + c.C = 3 + (c.P + (c.C + 0)) by omega]
  refine (extractLsb'_append_hi _ kind _ _).trans ((extractLsb'_append_hi _ _ _ _).trans
    ((extractLsb'_append_hi _ _ _ _).trans ?_))
  exact BitVec.extractLsb'_eq_self

/-- The bits of `set_ctrl`'s `kind` (R117). -/
theorem ctrlKind_bits (enOut enIir : Bool) :
    (ctrlKind enOut enIir).getLsbD 2 = false ∧ (ctrlKind enOut enIir).getLsbD 1 = enOut ∧
      (ctrlKind enOut enIir).getLsbD 0 = enIir := by
  cases enOut <;> cases enIir <;> decide

/-- With distinct indices each index names its own field (CF9). -/
theorem fieldAt_idx (h : c.holds .cf9 = true) (f : CoeffField) : c.fieldAt (c.idx f) = some f := by
  have inj : ∀ g, c.idx g = c.idx f → g = f := by
    simp only [Config.holds, Config.indices, decide_eq_true_eq, List.nodup_cons, List.mem_cons,
      List.not_mem_nil, or_false, not_or] at h
    obtain ⟨h0, h1, h2, h3, h4, h5, h6, -⟩ := h
    intro g e
    cases g <;> cases f <;> first | rfl | (exfalso; simp_all)
  have mem : f ∈ [CoeffField.ftw1, .b1, .pow, .cfg, .offset, .a1, .ftw0, .b0] := by
    cases f <;> decide
  unfold Config.fieldAt
  cases hg : List.find? (fun g => c.idx g == c.idx f)
      [CoeffField.ftw1, .b1, .pow, .cfg, .offset, .a1, .ftw0, .b0] with
  | none => simpa using (List.find?_eq_none.1 hg) f mem
  | some g =>
    have e := List.find?_some (p := fun g => c.idx g == c.idx f) hg
    exact congrArg some (inj g (beq_iff_eq.1 e))

end Sys2Proof
end

