-- ==== Sys2Proof/Laws/State.lean ====
section
/-! SUPPORT. Every field after every update of the registers, once (one lemma per field per update,
true by `rfl`), so that no later proof unfolds a record update. -/

namespace Sys2Proof.Machine.Regs

variable {c : Config} (r : Regs c)

/-! ## `raise` -/

@[simp] theorem raise_ctrl (code : FaultCode) (info : FaultInfo) :
    (r.raise code info).ctrl = r.ctrl := rfl
@[simp] theorem raise_cm (code : FaultCode) (info : FaultInfo) :
    (r.raise code info).cm = r.cm := rfl
@[simp] theorem raise_sm (code : FaultCode) (info : FaultInfo) :
    (r.raise code info).sm = r.sm := rfl
@[simp] theorem raise_acq (code : FaultCode) (info : FaultInfo) :
    (r.raise code info).acq = r.acq := rfl
@[simp] theorem raise_filt (code : FaultCode) (info : FaultInfo) :
    (r.raise code info).filt = r.filt := rfl
@[simp] theorem raise_out (code : FaultCode) (info : FaultInfo) :
    (r.raise code info).out = r.out := rfl
@[simp] theorem raise_sched (code : FaultCode) (info : FaultInfo) :
    (r.raise code info).sched = r.sched := rfl
@[simp] theorem raise_faults (code : FaultCode) (info : FaultInfo) :
    (r.raise code info).faults = addFault r.faults (FaultRec.mk code r.now info) := rfl
@[simp] theorem raise_now (code : FaultCode) (info : FaultInfo) :
    (r.raise code info).now = r.now := rfl
@[simp] theorem raise_inp (code : FaultCode) (info : FaultInfo) :
    (r.raise code info).inp = r.inp := rfl
@[simp] theorem raise_script (code : FaultCode) (info : FaultInfo) :
    (r.raise code info).script = r.script := rfl
@[simp] theorem raise_draws (code : FaultCode) (info : FaultInfo) :
    (r.raise code info).draws = r.draws := rfl
@[simp] theorem raise_outs (code : FaultCode) (info : FaultInfo) :
    (r.raise code info).outs = r.outs := rfl

/-! ## `putHrd` -/

@[simp] theorem putHrd_ctrl (d : Option (HostData c)) : (r.putHrd d).ctrl = r.ctrl := rfl
@[simp] theorem putHrd_cm (d : Option (HostData c)) : (r.putHrd d).cm = r.cm := rfl
@[simp] theorem putHrd_sm (d : Option (HostData c)) : (r.putHrd d).sm = r.sm := rfl
@[simp] theorem putHrd_acq (d : Option (HostData c)) : (r.putHrd d).acq = r.acq := rfl
@[simp] theorem putHrd_filt (d : Option (HostData c)) : (r.putHrd d).filt = r.filt := rfl
@[simp] theorem putHrd_out (d : Option (HostData c)) : (r.putHrd d).out = r.out := rfl
@[simp] theorem putHrd_sched (d : Option (HostData c)) : (r.putHrd d).sched = r.sched := rfl
@[simp] theorem putHrd_faults (d : Option (HostData c)) : (r.putHrd d).faults = r.faults := rfl
@[simp] theorem putHrd_now (d : Option (HostData c)) : (r.putHrd d).now = r.now := rfl
@[simp] theorem putHrd_inp (d : Option (HostData c)) : (r.putHrd d).inp = r.inp := rfl
@[simp] theorem putHrd_script (d : Option (HostData c)) : (r.putHrd d).script = r.script := rfl
@[simp] theorem putHrd_draws (d : Option (HostData c)) : (r.putHrd d).draws = r.draws := rfl
@[simp] theorem putHrd_outs (d : Option (HostData c)) :
    (r.putHrd d).outs = { r.outs with hrd := d } := rfl

/-! ## `stWrite` -/

@[simp] theorem stWrite_ctrl (a : Nat) (v : BitVec c.S) : (r.stWrite a v).ctrl = r.ctrl := rfl
@[simp] theorem stWrite_cm (a : Nat) (v : BitVec c.S) : (r.stWrite a v).cm = r.cm := rfl
@[simp] theorem stWrite_sm (a : Nat) (v : BitVec c.S) :
    (r.stWrite a v).sm = r.sm.write c.memInit a v := rfl
@[simp] theorem stWrite_acq (a : Nat) (v : BitVec c.S) : (r.stWrite a v).acq = r.acq := rfl
@[simp] theorem stWrite_filt (a : Nat) (v : BitVec c.S) : (r.stWrite a v).filt = r.filt := rfl
@[simp] theorem stWrite_out (a : Nat) (v : BitVec c.S) : (r.stWrite a v).out = r.out := rfl
@[simp] theorem stWrite_sched (a : Nat) (v : BitVec c.S) : (r.stWrite a v).sched = r.sched := rfl
@[simp] theorem stWrite_faults (a : Nat) (v : BitVec c.S) : (r.stWrite a v).faults = r.faults := rfl
@[simp] theorem stWrite_now (a : Nat) (v : BitVec c.S) : (r.stWrite a v).now = r.now := rfl
@[simp] theorem stWrite_inp (a : Nat) (v : BitVec c.S) : (r.stWrite a v).inp = r.inp := rfl
@[simp] theorem stWrite_script (a : Nat) (v : BitVec c.S) : (r.stWrite a v).script = r.script := rfl
@[simp] theorem stWrite_draws (a : Nat) (v : BitVec c.S) : (r.stWrite a v).draws = r.draws := rfl
@[simp] theorem stWrite_outs (a : Nat) (v : BitVec c.S) : (r.stWrite a v).outs = r.outs := rfl

/-! ## `cmWriteHalf` -/

@[simp] theorem cmWriteHalf_ctrl (a : Nat) (b : Bool) (v : BitVec c.K) :
    (r.cmWriteHalf a b v).ctrl = r.ctrl := rfl
@[simp] theorem cmWriteHalf_cm (a : Nat) (b : Bool) (v : BitVec c.K) :
    (r.cmWriteHalf a b v).cm = r.cm.write c.memInit (cmCell a b) v := rfl
@[simp] theorem cmWriteHalf_sm (a : Nat) (b : Bool) (v : BitVec c.K) :
    (r.cmWriteHalf a b v).sm = r.sm := rfl
@[simp] theorem cmWriteHalf_acq (a : Nat) (b : Bool) (v : BitVec c.K) :
    (r.cmWriteHalf a b v).acq = r.acq := rfl
@[simp] theorem cmWriteHalf_filt (a : Nat) (b : Bool) (v : BitVec c.K) :
    (r.cmWriteHalf a b v).filt = r.filt := rfl
@[simp] theorem cmWriteHalf_out (a : Nat) (b : Bool) (v : BitVec c.K) :
    (r.cmWriteHalf a b v).out = r.out := rfl
@[simp] theorem cmWriteHalf_sched (a : Nat) (b : Bool) (v : BitVec c.K) :
    (r.cmWriteHalf a b v).sched = r.sched := rfl
@[simp] theorem cmWriteHalf_faults (a : Nat) (b : Bool) (v : BitVec c.K) :
    (r.cmWriteHalf a b v).faults = r.faults := rfl
@[simp] theorem cmWriteHalf_now (a : Nat) (b : Bool) (v : BitVec c.K) :
    (r.cmWriteHalf a b v).now = r.now := rfl
@[simp] theorem cmWriteHalf_inp (a : Nat) (b : Bool) (v : BitVec c.K) :
    (r.cmWriteHalf a b v).inp = r.inp := rfl
@[simp] theorem cmWriteHalf_script (a : Nat) (b : Bool) (v : BitVec c.K) :
    (r.cmWriteHalf a b v).script = r.script := rfl
@[simp] theorem cmWriteHalf_draws (a : Nat) (b : Bool) (v : BitVec c.K) :
    (r.cmWriteHalf a b v).draws = r.draws := rfl
@[simp] theorem cmWriteHalf_outs (a : Nat) (b : Bool) (v : BitVec c.K) :
    (r.cmWriteHalf a b v).outs = r.outs := rfl

/-! ## `present` -/

@[simp] theorem present_ctrl (inp : TickInput c) (rest : List (Event c)) :
    (r.present inp rest).ctrl = r.ctrl := rfl
@[simp] theorem present_cm (inp : TickInput c) (rest : List (Event c)) :
    (r.present inp rest).cm = r.cm := rfl
@[simp] theorem present_sm (inp : TickInput c) (rest : List (Event c)) :
    (r.present inp rest).sm = r.sm := rfl
@[simp] theorem present_acq (inp : TickInput c) (rest : List (Event c)) :
    (r.present inp rest).acq = r.acq := rfl
@[simp] theorem present_filt (inp : TickInput c) (rest : List (Event c)) :
    (r.present inp rest).filt = r.filt := rfl
@[simp] theorem present_out (inp : TickInput c) (rest : List (Event c)) :
    (r.present inp rest).out = r.out := rfl
@[simp] theorem present_sched (inp : TickInput c) (rest : List (Event c)) :
    (r.present inp rest).sched = r.sched := rfl
@[simp] theorem present_faults (inp : TickInput c) (rest : List (Event c)) :
    (r.present inp rest).faults = r.faults := rfl
@[simp] theorem present_now (inp : TickInput c) (rest : List (Event c)) :
    (r.present inp rest).now = r.now := rfl
@[simp] theorem present_inp (inp : TickInput c) (rest : List (Event c)) :
    (r.present inp rest).inp = inp := rfl
@[simp] theorem present_script (inp : TickInput c) (rest : List (Event c)) :
    (r.present inp rest).script = rest := rfl
@[simp] theorem present_draws (inp : TickInput c) (rest : List (Event c)) :
    (r.present inp rest).draws = r.draws := rfl
@[simp] theorem present_outs (inp : TickInput c) (rest : List (Event c)) :
    (r.present inp rest).outs = TickOut.quiet c := rfl

/-! ## `applyReset` -/

@[simp] theorem applyReset_ctrl : r.applyReset.ctrl = Vector.replicate c.nCh (ChanCtl.off c) := rfl
@[simp] theorem applyReset_cm : r.applyReset.cm = r.cm := rfl
@[simp] theorem applyReset_sm : r.applyReset.sm = r.sm := rfl
@[simp] theorem applyReset_acq : r.applyReset.acq = AcqRegs.atReset c := rfl
@[simp] theorem applyReset_filt : r.applyReset.filt = FiltRegs.atReset c := rfl
@[simp] theorem applyReset_out : r.applyReset.out = OutRegs.atReset c := rfl
@[simp] theorem applyReset_sched : r.applyReset.sched = SchedRegs.atReset := rfl
@[simp] theorem applyReset_faults : r.applyReset.faults = [] := rfl
@[simp] theorem applyReset_now : r.applyReset.now = 0 := rfl
@[simp] theorem applyReset_inp : r.applyReset.inp = TickInput.quiet c r.inp.enable := rfl
@[simp] theorem applyReset_script : r.applyReset.script = r.script := rfl
@[simp] theorem applyReset_draws : r.applyReset.draws = r.draws := rfl
@[simp] theorem applyReset_outs : r.applyReset.outs = TickOut.quiet c := rfl

/-! ## `applyPowerUp` -/

@[simp] theorem applyPowerUp_ctrl :
    r.applyPowerUp.ctrl = Vector.replicate c.nCh (ChanCtl.off c) := rfl
@[simp] theorem applyPowerUp_cm : r.applyPowerUp.cm = [] := rfl
@[simp] theorem applyPowerUp_sm : r.applyPowerUp.sm = [] := rfl
@[simp] theorem applyPowerUp_acq : r.applyPowerUp.acq = AcqRegs.atReset c := rfl
@[simp] theorem applyPowerUp_filt : r.applyPowerUp.filt = FiltRegs.atReset c := rfl
@[simp] theorem applyPowerUp_out : r.applyPowerUp.out = OutRegs.atReset c := rfl
@[simp] theorem applyPowerUp_sched : r.applyPowerUp.sched = SchedRegs.atReset := rfl
@[simp] theorem applyPowerUp_faults : r.applyPowerUp.faults = [] := rfl
@[simp] theorem applyPowerUp_now : r.applyPowerUp.now = 0 := rfl
@[simp] theorem applyPowerUp_inp : r.applyPowerUp.inp = TickInput.quiet c r.inp.enable := rfl
@[simp] theorem applyPowerUp_script : r.applyPowerUp.script = r.script := rfl
@[simp] theorem applyPowerUp_draws : r.applyPowerUp.draws = r.draws := rfl
@[simp] theorem applyPowerUp_outs : r.applyPowerUp.outs = TickOut.quiet c := rfl

/-! ## `walk` -/

@[simp] theorem walk_ctrl (n : Regs c) (last : Nat) (next : FState) :
    (r.walk n last next).ctrl = n.ctrl := rfl
@[simp] theorem walk_cm (n : Regs c) (last : Nat) (next : FState) :
    (r.walk n last next).cm = n.cm := rfl
@[simp] theorem walk_sm (n : Regs c) (last : Nat) (next : FState) :
    (r.walk n last next).sm = n.sm := rfl
@[simp] theorem walk_acq (n : Regs c) (last : Nat) (next : FState) :
    (r.walk n last next).acq = n.acq := rfl
@[simp] theorem walk_filt (n : Regs c) (last : Nat) (next : FState) : (r.walk n last next).filt = { n.filt with
      state := if r.filt.k = last then next else r.filt.state
      k := if r.filt.k = last then 0 else r.filt.k + 1 } := rfl
@[simp] theorem walk_out (n : Regs c) (last : Nat) (next : FState) :
    (r.walk n last next).out = n.out := rfl
@[simp] theorem walk_sched (n : Regs c) (last : Nat) (next : FState) :
    (r.walk n last next).sched = n.sched := rfl
@[simp] theorem walk_faults (n : Regs c) (last : Nat) (next : FState) :
    (r.walk n last next).faults = n.faults := rfl
@[simp] theorem walk_now (n : Regs c) (last : Nat) (next : FState) :
    (r.walk n last next).now = n.now := rfl
@[simp] theorem walk_inp (n : Regs c) (last : Nat) (next : FState) :
    (r.walk n last next).inp = n.inp := rfl
@[simp] theorem walk_script (n : Regs c) (last : Nat) (next : FState) :
    (r.walk n last next).script = n.script := rfl
@[simp] theorem walk_draws (n : Regs c) (last : Nat) (next : FState) :
    (r.walk n last next).draws = n.draws := rfl
@[simp] theorem walk_outs (n : Regs c) (last : Nat) (next : FState) :
    (r.walk n last next).outs = n.outs := rfl

/-! ## `outTick` -/

@[simp] theorem outTick_ctrl (n : Regs c) : (r.outTick n).ctrl = n.ctrl := rfl
@[simp] theorem outTick_cm (n : Regs c) : (r.outTick n).cm = n.cm := rfl
@[simp] theorem outTick_sm (n : Regs c) : (r.outTick n).sm = n.sm := rfl
@[simp] theorem outTick_acq (n : Regs c) : (r.outTick n).acq = n.acq := rfl
@[simp] theorem outTick_filt (n : Regs c) : (r.outTick n).filt = n.filt := rfl
@[simp] theorem outTick_out (n : Regs c) :
    (r.outTick n).out = { n.out with dl := (r.out.dl ++ BitVec.ofBool r.oDone).setWidth (c.updDelay + 1) } := rfl
@[simp] theorem outTick_sched (n : Regs c) : (r.outTick n).sched = n.sched := rfl
@[simp] theorem outTick_faults (n : Regs c) : (r.outTick n).faults = n.faults := rfl
@[simp] theorem outTick_now (n : Regs c) : (r.outTick n).now = n.now := rfl
@[simp] theorem outTick_inp (n : Regs c) : (r.outTick n).inp = n.inp := rfl
@[simp] theorem outTick_script (n : Regs c) : (r.outTick n).script = n.script := rfl
@[simp] theorem outTick_draws (n : Regs c) : (r.outTick n).draws = n.draws := rfl
@[simp] theorem outTick_outs (n : Regs c) : (r.outTick n).outs = { n.outs with
      ioUpdate := r.ioUpdate
      delivered := if r.oDoneRises then some r.out.fr else none } := rfl

/-! ## `commit` -/

@[simp] theorem commit_ctrl (h a e o : Regs c) : (commit r h a e o).ctrl = h.ctrl := rfl
@[simp] theorem commit_cm (h a e o : Regs c) : (commit r h a e o).cm = h.cm := rfl
@[simp] theorem commit_sm (h a e o : Regs c) :
    (commit r h a e o).sm = if r.engineWritesSm then e.sm else h.sm := rfl
@[simp] theorem commit_acq (h a e o : Regs c) : (commit r h a e o).acq = a.acq := rfl
@[simp] theorem commit_filt (h a e o : Regs c) : (commit r h a e o).filt = e.filt := rfl
@[simp] theorem commit_out (h a e o : Regs c) : (commit r h a e o).out = o.out := rfl
@[simp] theorem commit_sched (h a e o : Regs c) : (commit r h a e o).sched = r.schedule := rfl
@[simp] theorem commit_faults (h a e o : Regs c) :
    (commit r h a e o).faults = addFaults r.faults (h.faults ++ a.faults ++ e.faults ++ o.faults) := rfl
@[simp] theorem commit_now (h a e o : Regs c) : (commit r h a e o).now = r.now + 1 := rfl
@[simp] theorem commit_inp (h a e o : Regs c) : (commit r h a e o).inp = r.inp := rfl
@[simp] theorem commit_script (h a e o : Regs c) : (commit r h a e o).script = r.script := rfl
@[simp] theorem commit_draws (h a e o : Regs c) : (commit r h a e o).draws = a.draws := rfl
@[simp] theorem commit_outs (h a e o : Regs c) :
    (commit r h a e o).outs = TickOut.mk h.outs.hrd o.outs.ioUpdate o.outs.delivered e.outs.clip := rfl

end Sys2Proof.Machine.Regs
end

