-- ==== Sys2Proof/Laws/Exec.lean ====
section
/-! SUPPORT. What `exec` and `step` are, once: `exec` as a function of the registers, and a tick as
one commit of its four operations. Later proofs cite these instead of unfolding the machine. -/

namespace Sys2Proof.Laws

open Sys2Proof.Machine

variable {c : Config}

/-- The registers after an instruction: its meaning without the outcome and the configuration. -/
def act (i : Instr) (r : Regs c) : Regs c :=
  match i with
  | .setCoeffFtw1 ch prof v => r.setCoeff .ftw1 ch prof v
  | .setCoeffB1 ch prof v => r.setCoeff .b1 ch prof v
  | .setCoeffPow ch prof v => r.setCoeff .pow ch prof v
  | .setCoeffCfg ch prof v => r.setCoeff .cfg ch prof v
  | .setCoeffOffset ch prof v => r.setCoeff .offset ch prof v
  | .setCoeffA1 ch prof v => r.setCoeff .a1 ch prof v
  | .setCoeffFtw0 ch prof v => r.setCoeff .ftw0 ch prof v
  | .setCoeffB0 ch prof v => r.setCoeff .b0 ch prof v
  | .getCoeffFtw1 ch prof => r.getCoeff .ftw1 ch prof
  | .getCoeffB1 ch prof => r.getCoeff .b1 ch prof
  | .getCoeffPow ch prof => r.getCoeff .pow ch prof
  | .getCoeffCfg ch prof => r.getCoeff .cfg ch prof
  | .getCoeffOffset ch prof => r.getCoeff .offset ch prof
  | .getCoeffA1 ch prof => r.getCoeff .a1 ch prof
  | .getCoeffFtw0 ch prof => r.getCoeff .ftw0 ch prof
  | .getCoeffB0 ch prof => r.getCoeff .b0 ch prof
  | .setStateY1 ch prof v => r.setState (.y1 ch prof) v
  | .setStateX0 ch v => r.setState (.x0 ch) v
  | .setStateX1 ch v => r.setState (.x1 ch) v
  | .getStateY1 ch prof => r.getState (.y1 ch prof)
  | .getStateX0 ch => r.getState (.x0 ch)
  | .getStateX1 ch => r.getState (.x1 ch)
  | .setCtrl ch prof o i => r.setCtrl ch prof o i
  | .idleWait => r.doIdleWait
  | .loadSx => r.doLoadSx
  | .loadWr => r.doLoadWr
  | .procP0 => r.doProcP0
  | .procP1 => r.doProcP1
  | .procP2 => r.doProcP2
  | .procP3 => r.doProcP3
  | .shiftRd => r.doShiftRd
  | .shiftWr => r.doShiftWr
  | .acqIdle => r.doAcqIdle
  | .acqCnvh => r.acqCount (c.acq.tConv - 2) .conv
  | .acqConv => r.acqCount (c.tRead - 1) .read
  | .acqRead => r.acqCount (c.acq.tRtt - 1) .rtt
  | .acqRtt => r.doAcqRtt
  | .outStart => r.doOutStart
  | .outBusy => r.doOutBusy

/-- Every instruction answers a next state, in every state, under the same configuration. -/
theorem exec_eq (i : Instr) (r : Regs c) : exec i ⟨c, r⟩ = .next ⟨c, act i r⟩ := by
  cases i <;> rfl

theorem exec_setCoeff (f : CoeffField) (ch prof : Nat) (v : Int) (r : Regs c) :
    exec (.setCoeff f ch prof v) ⟨c, r⟩ = .next ⟨c, r.setCoeff f ch prof v⟩ := by
  cases f <;> rfl

theorem exec_getCoeff (f : CoeffField) (ch prof : Nat) (r : Regs c) :
    exec (.getCoeff f ch prof) ⟨c, r⟩ = .next ⟨c, r.getCoeff f ch prof⟩ := by
  cases f <;> rfl

theorem exec_setState (w : StateRef) (v : Int) (r : Regs c) :
    exec (.setState w v) ⟨c, r⟩ = .next ⟨c, r.setState w v⟩ := by
  cases w <;> rfl

theorem exec_getState (w : StateRef) (r : Regs c) :
    exec (.getState w) ⟨c, r⟩ = .next ⟨c, r.getState w⟩ := by
  cases w <;> rfl

/-- The registers after the host's part of a tick. -/
def hostAct (r : Regs c) : Regs c :=
  match r.inp.op with
  | none => r
  | some op =>
    match op.instr with
    | .ok i => act i r
    | .error info => r.raise .hostBadOp info

theorem hostPart_eq (r : Regs c) : hostPart ⟨c, r⟩ = .next ⟨c, hostAct r⟩ := by
  unfold hostPart hostAct
  dsimp only
  cases r.inp.op with
  | none => rfl
  | some op => cases h : op.instr <;> simp [h, exec_eq, nextWith]

theorem andThen_next {x : Host.Outcome State Fault Refusal} {t : State}
    {f : (t : State) → x = .next t → Host.Outcome State Fault Refusal} (h : x = .next t) :
    andThen x f = f t h := by
  subst h; rfl

theorem regsAs_same (q r : Regs c) (h : (State.mk c q).cfg = (State.mk c r).cfg) :
    State.regsAs ⟨c, q⟩ ⟨c, r⟩ h = q := rfl

/-- A tick is one commit of what its four operations do to the state at its start. -/
theorem runTick_eq (r : Regs c) :
    runTick ⟨c, r⟩ =
      .next ⟨c, commit r (hostAct r) (act r.acqOp r) (act r.engineOp r) (act r.outOp r)⟩ := by
  unfold runTick
  rw [andThen_next (hostPart_eq r), andThen_next (exec_eq r.acqOp r),
    andThen_next (exec_eq r.engineOp r), andThen_next (exec_eq r.outOp r)]
  rfl

/-- Everything one step can do: the stop of an invalid configuration, a halted tick, a tick, a reset
or a power-up. -/
theorem step_eq (r : Regs c) :
    step ⟨c, r⟩ =
      if c.valid then
        match r.nextEvent with
        | (.tick inp, rest) =>
          let q := r.present inp rest
          if r.halted then .next ⟨c, q⟩
          else .next ⟨c, commit q (hostAct q) (act q.acqOp q) (act q.engineOp q) (act q.outOp q)⟩
        | (.reset, rest) => .next ⟨c, ({ r with script := rest } : Regs c).applyReset⟩
        | (.powerUp, rest) => .next ⟨c, ({ r with script := rest } : Regs c).applyPowerUp⟩
      else .fault (.configuration c.failedChecks) := by
  unfold step advance
  dsimp only
  split
  · rcases h : r.nextEvent with ⟨e, rest⟩
    cases e with
    | tick inp =>
      dsimp only
      split
      · rfl
      · exact runTick_eq _
    | reset => rfl
    | powerUp => rfl
  · rfl

/-- A checked configuration always takes its step. -/
theorem step_next (h : c.valid = true) (r : Regs c) : ∃ t : Regs c, step ⟨c, r⟩ = .next ⟨c, t⟩ := by
  rw [step_eq, if_pos h]
  rcases r.nextEvent with ⟨e, rest⟩
  cases e with
  | tick inp =>
    dsimp only
    split <;> exact ⟨_, rfl⟩
  | reset => exact ⟨_, rfl⟩
  | powerUp => exact ⟨_, rfl⟩

end Sys2Proof.Laws
end

