-- ==== Sys2Proof/Laws/Memory.lean ====
section
/-! SUPPORT. The laws of a memory: a read after a write, and the canonical form and extent every
write keeps. -/

namespace Sys2Proof.Machine.Mem

variable {w : Nat}

@[simp] theorem find_nil (a : Nat) : find ([] : Mem w) a = none := rfl

theorem find_cons (b : Nat) (u : BitVec w) (m : Mem w) (a : Nat) :
    find ((b, u) :: m) a = if b = a then some u else find m a := rfl

theorem above_cons (n b : Nat) (u : BitVec w) (m : Mem w) :
    above n ((b, u) :: m) = (decide (n < b) && above n m) := rfl

theorem above_of_le {n k : Nat} (h : n ≤ k) (m : Mem w) (hm : above k m = true) :
    above n m = true := by
  simp only [above, List.all_eq_true, decide_eq_true_eq] at *
  exact fun p hp => Nat.lt_of_le_of_lt h (hm p hp)

/-- Nothing is listed at or below a bound of the list. -/
theorem find_of_above {n a : Nat} (h : a ≤ n) (m : Mem w) (hm : above n m = true) :
    find m a = none := by
  induction m with
  | nil => rfl
  | cons p m ih =>
    obtain ⟨b, u⟩ := p
    simp only [above_cons, Bool.and_eq_true, decide_eq_true_eq] at hm
    rw [find_cons, if_neg (by omega), ih hm.2]

theorem find_insert (m : Mem w) (a b : Nat) (v : BitVec w) :
    find (insert m a v) b = if b = a then some v else find m b := by
  induction m with
  | nil => simp only [insert, find_cons, find_nil, eq_comm]
  | cons p m ih =>
    obtain ⟨k, u⟩ := p
    simp only [insert]
    split
    · simp only [find_cons, eq_comm (a := a)]
    · split
      · subst k
        simp only [find_cons]
        by_cases h : a = b
        · simp [h]
        · simp [h, Ne.symm h]
      · rw [find_cons, find_cons, ih]
        by_cases h : k = b
        · subst k; rw [if_pos rfl, if_neg (by omega), if_pos rfl]
        · simp [h]

theorem find_erase {ini : MemInit} (m : Mem w) (hm : wf ini m = true) (a b : Nat) :
    find (erase m a) b = if b = a then none else find m b := by
  induction m with
  | nil => simp [erase]
  | cons p m ih =>
    obtain ⟨k, u⟩ := p
    simp only [wf, Bool.and_eq_true] at hm
    simp only [erase]
    split
    · subst k
      by_cases h : b = a
      · subst b; rw [if_pos rfl, find_of_above (Nat.le_refl a) m hm.1.1]
      · rw [if_neg h, find_cons, if_neg (Ne.symm h)]
    · next hk =>
      rw [find_cons, ih hm.2, find_cons]
      by_cases h : k = b
      · subst k; rw [if_pos rfl, if_neg (by omega), if_pos rfl]
      · simp [h]

theorem above_insert {n a : Nat} (h : n < a) (m : Mem w) (v : BitVec w) (hm : above n m = true) :
    above n (insert m a v) = true := by
  induction m with
  | nil => simpa [insert, above] using h
  | cons p m ih =>
    obtain ⟨k, u⟩ := p
    simp only [above_cons, Bool.and_eq_true, decide_eq_true_eq] at hm
    simp only [insert]
    split
    · simp [above_cons, h, hm.1, hm.2]
    · split <;> simp [above_cons, h, hm.1, hm.2, ih hm.2]

theorem above_erase {n : Nat} (m : Mem w) (a : Nat) (hm : above n m = true) :
    above n (erase m a) = true := by
  induction m with
  | nil => rfl
  | cons p m ih =>
    obtain ⟨k, u⟩ := p
    simp only [above_cons, Bool.and_eq_true] at hm
    simp only [erase]
    split
    · exact hm.2
    · simp [above_cons, hm.1, ih hm.2]

theorem wf_insert {ini : MemInit} (m : Mem w) (a : Nat) (v : BitVec w) (hv : unlisted w ini ≠ some v)
    (hm : wf ini m = true) : wf ini (insert m a v) = true := by
  induction m with
  | nil => simpa [insert, wf, above] using hv
  | cons p m ih =>
    obtain ⟨k, u⟩ := p
    simp only [wf, Bool.and_eq_true, decide_eq_true_eq] at hm
    obtain ⟨⟨h1, h2⟩, h3⟩ := hm
    simp only [insert]
    split
    · next h => simp [wf, above_cons, h, h1, h2, h3, hv, above_of_le (Nat.le_of_lt h) m h1]
    · split
      · next h => subst k; simp [wf, h1, h3, hv]
      · next h h' => simp [wf, h2, ih h3, above_insert (n := k) (a := a) (by omega) m v h1]

theorem wf_erase {ini : MemInit} (m : Mem w) (a : Nat) (hm : wf ini m = true) :
    wf ini (erase m a) = true := by
  induction m with
  | nil => rfl
  | cons p m ih =>
    obtain ⟨k, u⟩ := p
    simp only [wf, Bool.and_eq_true, decide_eq_true_eq] at hm
    obtain ⟨⟨h1, h2⟩, h3⟩ := hm
    simp only [erase]
    split
    · exact h3
    · simp [wf, h2, ih h3, above_erase m a h1]

/-- Every write keeps the canonical form. -/
theorem wf_write {ini : MemInit} (m : Mem w) (a : Nat) (v : BitVec w) (hm : wf ini m = true) :
    wf ini (write ini m a v) = true := by
  unfold write
  split
  · exact wf_erase m a hm
  · next h => exact wf_insert m a v h hm

/-- The memory at reset is canonical. -/
theorem wf_nil (ini : MemInit) : wf ini ([] : Mem w) = true := rfl

/-- A read after a write: the value written at its address, the old value at every other. -/
theorem read_write {ini : MemInit} (m : Mem w) (hm : wf ini m = true) (a b : Nat) (v : BitVec w) :
    read ini (write ini m a v) b = if b = a then some v else read ini m b := by
  unfold read write
  by_cases h : unlisted w ini = some v
  · rw [if_pos h, find_erase m hm]
    by_cases e : b = a
    · simp [e, h]
    · simp [e]
  · rw [if_neg h, find_insert]
    by_cases e : b = a
    · simp [e]
    · simp [e]

theorem below_insert {n a : Nat} (h : a < n) (m : Mem w) (v : BitVec w) (hm : below n m = true) :
    below n (insert m a v) = true := by
  induction m with
  | nil => simpa [insert, below] using h
  | cons p m ih =>
    obtain ⟨k, u⟩ := p
    simp only [below, List.all_cons, Bool.and_eq_true, decide_eq_true_eq] at hm ih ⊢
    simp only [insert]
    split
    · simp [h, hm.1, hm.2]
    · split <;> simp [h, hm.1, hm.2, ih hm.2]

theorem below_erase {n : Nat} (m : Mem w) (a : Nat) (hm : below n m = true) :
    below n (erase m a) = true := by
  induction m with
  | nil => rfl
  | cons p m ih =>
    obtain ⟨k, u⟩ := p
    simp only [below, List.all_cons, Bool.and_eq_true] at hm ih ⊢
    simp only [erase]
    split
    · exact hm.2
    · simp [hm.1, ih hm.2]

/-- A write inside the space keeps every listed address inside it. -/
theorem below_write {ini : MemInit} {n a : Nat} (h : a < n) (m : Mem w) (v : BitVec w)
    (hm : below n m = true) : below n (write ini m a v) = true := by
  unfold write
  split
  · exact below_erase m a hm
  · exact below_insert h m v hm

end Sys2Proof.Machine.Mem
end

