-- ==== Sys2Proof/Laws/Ops.lean ====
section
/-! SUPPORT. What each shared operation does, once: addresses as sums, the fault record as a set, reads
after writes, the engine's ports, the phases of a slot, the walks, and the memory invariant every
operation keeps. Later proofs cite these instead of unfolding an operation. -/

namespace Sys2Proof.Machine

variable {c : Config}

/-! ## Addresses -/

theorem chanOf_val {n : Nat} (h : n < c.nCh) : (chanOf c n).val = n := Nat.mod_eq_of_lt h

theorem chanOf_fin (ch : Fin c.nCh) : chanOf c ch.val = ch := Fin.ext (chanOf_val ch.isLt)

/-- `(a << n) | b` is `a·2^n + b` when `b` fits in `n` bits. -/
theorem shiftLeft_or {a b n : Nat} (h : b < 2 ^ n) : (a <<< n) ||| b = a * 2 ^ n + b := by
  rw [Nat.shiftLeft_eq, Nat.mul_comm, Nat.two_pow_add_eq_or_of_lt h]

theorem cmAddr_eq {ch prof word : Nat} (hp : prof < 2 ^ c.P) (hw : word < 4) :
    cmAddr c ch prof word = ch * 2 ^ (c.P + 2) + prof * 4 + word := by
  have h : 2 ^ (c.P + 2) = 2 ^ c.P * 4 := pow_add 2 c.P 2
  rw [cmAddr, Nat.or_assoc, shiftLeft_or (n := 2) (by omega), shiftLeft_or (by omega)]
  omega

theorem smY1_eq {ch prof : Nat} (h : ch < c.nCh) : smY1 c ch prof = prof * 2 ^ c.C + ch :=
  shiftLeft_or h

theorem smX0_eq {ch : Nat} (h : ch < c.nCh) : smX0 c ch = 2 ^ c.P * 2 ^ c.C + ch := shiftLeft_or h

theorem smX1_eq {ch : Nat} (h : ch < c.nCh) : smX1 c ch = (2 ^ c.P + 1) * 2 ^ c.C + ch :=
  shiftLeft_or h

/-- The two halves of the `CM` words are cells of their own. -/
theorem cmCell_inj {a b : Nat} {h k : Bool} : cmCell a h = cmCell b k ↔ a = b ∧ h = k := by
  unfold cmCell
  cases h <;> cases k <;> simp <;> omega

theorem wordOf_lt (idx : BitVec 3) : wordOf idx < 4 := by
  have := idx.isLt; unfold wordOf; omega

theorem isHigh_eq (idx : BitVec 3) : isHigh idx = decide (idx.toNat % 2 = 1) := by
  revert idx; decide

/-- Every state word that exists lies inside `SM`. -/
theorem smAddr_lt {w : StateRef} (h : refOk c w = true) : smAddr c w < smWords c := by
  have e : smWords c = 2 ^ c.P * 2 ^ c.C + 2 * 2 ^ c.C := by
    unfold smWords; rw [pow_add, pow_add]; omega
  cases w with
  | y1 ch prof =>
    simp only [refOk, Bool.and_eq_true, decide_eq_true_eq] at h
    have := Nat.mul_le_mul_right (2 ^ c.C) (Nat.succ_le_of_lt h.2)
    rw [smAddr, smY1_eq h.1, e]
    rw [Nat.succ_mul] at this
    have := h.1
    simp only [Config.nCh] at this
    omega
  | x0 ch =>
    simp only [refOk, decide_eq_true_eq] at h
    rw [smAddr, smX0_eq h, e]
    simp only [Config.nCh] at h
    omega
  | x1 ch =>
    simp only [refOk, decide_eq_true_eq] at h
    rw [smAddr, smX1_eq h, e, Nat.add_mul]
    simp only [Config.nCh] at h
    omega

/-! ## Calls by name -/

@[simp] theorem fieldOfName_fieldName (f : CoeffField) : fieldOfName (fieldName f) = some f := by
  cases f <;> rfl

/-- A name names no field exactly when it is the name of none. -/
theorem fieldOfName_eq_none {name : List Char} : fieldOfName name = none ↔ ∀ f, name ≠ fieldName f := by
  constructor
  · rintro h f rfl; simp at h
  · intro h
    refine List.find?_eq_none.2 fun f _ => ?_
    simpa using fun e => h f e.symm

/-- A kind with its profile names no state word exactly when it is none of R328's three forms. -/
theorem refOfKind_eq_none {ch : Nat} {prof : Option Nat} {kind : List Char} :
    refOfKind ch prof kind = none ↔
      ¬ (kind = ['y', '1'] ∧ prof ≠ none ∨ (kind = ['x', '0'] ∨ kind = ['x', '1']) ∧ prof = none) := by
  unfold refOfKind
  split
  · simp_all
  · split <;> simp_all

/-! ## Fault codes -/

theorem faultCode_number_inj {a b : FaultCode} (h : a.number = b.number) : a = b := by
  cases a <;> cases b <;> first | rfl | (simp [FaultCode.number] at h)

/-! ## The fault record -/

theorem mem_addFault {fs : List FaultRec} {f g : FaultRec} : g ∈ addFault fs f ↔ g ∈ fs ∨ g = f := by
  unfold addFault
  split
  · next h => exact ⟨.inl, fun h' => h'.elim id fun e => e ▸ h⟩
  · simp

theorem mem_addFaults {new fs : List FaultRec} {g : FaultRec} :
    g ∈ addFaults fs new ↔ g ∈ fs ∨ g ∈ new := by
  unfold addFaults
  induction new generalizing fs with
  | nil => simp
  | cons f new ih => rw [List.foldl_cons, ih, mem_addFault, List.mem_cons, or_assoc]

@[simp] theorem addFault_ne_nil (fs : List FaultRec) (f : FaultRec) : addFault fs f ≠ [] := by
  intro h
  have : f ∈ addFault fs f := mem_addFault.2 (.inr rfl)
  rw [h] at this
  exact absurd this (List.not_mem_nil)

theorem addFaults_eq_nil {fs new : List FaultRec} : addFaults fs new = [] ↔ fs = [] ∧ new = [] := by
  simp only [List.eq_nil_iff_forall_not_mem, mem_addFaults, not_or, forall_and]

namespace Regs

variable (r n : Regs c)

/-! ## The memories -/

theorem stRead_stWrite (h : r.sm.wf c.memInit = true) (a b : Nat) (v : BitVec c.S) :
    (r.stWrite a v).stRead b = if b = a then some v else r.stRead b :=
  Mem.read_write r.sm h a b v

theorem cmHalf_cmWriteHalf (h : r.cm.wf c.memInit = true) (a b : Nat) (x y : Bool) (v : BitVec c.K) :
    (r.cmWriteHalf a x v).cmHalf b y = if b = a ∧ y = x then some v else r.cmHalf b y := by
  unfold cmHalf
  rw [cmWriteHalf_cm, Mem.read_write r.cm h]
  simp only [cmCell_inj]

/-- A word is defined when both its halves are. -/
theorem coefRead_eq_some {a : Nat} {w : BitVec (c.K + c.K)} :
    r.coefRead a = some w ↔
      ∃ hi lo, r.cmHalf a true = some hi ∧ r.cmHalf a false = some lo ∧ w = hi ++ lo := by
  unfold coefRead
  cases r.cmHalf a true <;> cases r.cmHalf a false <;> simp [eq_comm]

theorem coefRead_eq_none {a : Nat} :
    r.coefRead a = none ↔ r.cmHalf a true = none ∨ r.cmHalf a false = none := by
  unfold coefRead
  cases r.cmHalf a true <;> cases r.cmHalf a false <;> simp

/-- The halves of a word `{hi, lo}` (R83, R110). -/
theorem halfOf_append {k : Nat} (hi lo : BitVec k) (b : Bool) :
    halfOf (hi ++ lo) b = if b then hi else lo := by
  cases b
  · ext i h
    simp only [halfOf, Bool.false_eq_true, if_false, BitVec.getElem_extractLsb', Nat.zero_add,
      BitVec.getLsbD_append, h, if_true]
    simp [h, BitVec.getLsbD_eq_getElem]
  · ext i h
    simp only [halfOf, if_true, BitVec.getElem_extractLsb', BitVec.getLsbD_append,
      show ¬ k + i < k by omega, if_false, Nat.add_sub_cancel_left]
    exact BitVec.getLsbD_eq_getElem h

theorem memOk_stWrite {a : Nat} (v : BitVec c.S) (h : r.MemOk) (ha : a < smWords c) :
    (r.stWrite a v).MemOk :=
  ⟨h.1, Mem.wf_write _ _ _ h.2.1, h.2.2.1, Mem.below_write ha _ _ h.2.2.2⟩

theorem memOk_cmWriteHalf {a : Nat} (b : Bool) (v : BitVec c.K) (h : r.MemOk) (ha : a < cmWords c) :
    (r.cmWriteHalf a b v).MemOk :=
  ⟨Mem.wf_write _ _ _ h.1, h.2.1,
    Mem.below_write (by unfold cmCell; split <;> omega) _ _ h.2.2.1, h.2.2.2⟩

/-- Reset keeps both memories, and with them their form. -/
theorem memOk_applyReset (h : r.MemOk) : r.applyReset.MemOk := h

theorem memOk_applyPowerUp : r.applyPowerUp.MemOk := ⟨rfl, rfl, rfl, rfl⟩

/-! ## Starts at a busy stage -/

theorem acqBusyStart_of_not (h : r.acqStart = false) : r.acqBusyStart = r := by
  simp [acqBusyStart, h]

theorem acqBusyStart_of (h : r.acqStart = true) : r.acqBusyStart = r.raise .startBusyAcq .none := by
  simp [acqBusyStart, h]

theorem filtBusyStart_of_not (h : r.filtStart = false) : r.filtBusyStart = r := by
  simp [filtBusyStart, h]

theorem filtBusyStart_of (h : r.filtStart = true) : r.filtBusyStart = r.raise .startBusyIir .none := by
  simp [filtBusyStart, h]

/-- All a busy filter start writes is its record. -/
theorem filtBusyStart_eq : r.filtBusyStart = { r with faults := r.filtBusyStart.faults } := by
  unfold filtBusyStart; split <;> rfl

/-- All a busy filter start writes is its record, and it keeps the records there are. -/
theorem filtBusyStart_keeps :
    ∃ fs, r.filtBusyStart = { r with faults := fs } ∧ ∀ f ∈ r.faults, f ∈ fs :=
  ⟨_, r.filtBusyStart_eq, fun f hf => by
    unfold filtBusyStart; split
    · exact mem_addFault.2 (.inl hf)
    · exact hf⟩

/-- All a busy acquisition start writes is its record. -/
theorem acqBusyStart_eq : r.acqBusyStart = { r with faults := r.acqBusyStart.faults } := by
  unfold acqBusyStart; split <;> rfl

/-! ## The acquisition countdown -/

/-- A timed state's tick writes `acq_state`, `acq_cnt` and a busy start's record (R151). -/
theorem acqCount_eq (load : Nat) (next : AcqState) :
    r.acqCount load next = { r with
      faults := r.acqBusyStart.faults
      acq := { r.acq with
        state := if r.acq.cnt = 0 then next else r.acq.state
        cnt := if r.acq.cnt = 0 then load else r.acq.cnt - 1 } } := by
  unfold acqCount
  dsimp only
  rw [acqBusyStart_eq]
  split <;> rfl

/-! ## The engine's ports -/

/-- A state-port read: `SD` takes the word, or the record is all it writes. -/
theorem loadSd_cases (a : Nat) :
    (∃ v, r.stRead a = some v ∧ r.loadSd n a = { n with filt := { n.filt with sd := v } }) ∨
    (r.stRead a = none ∧ r.loadSd n a = n.raise .uninitRead (.mem .sm a)) := by
  unfold loadSd
  cases h : r.stRead a with
  | some v => exact .inl ⟨v, rfl, rfl⟩
  | none => exact .inr ⟨rfl, rfl⟩

/-- The fetch of phases 0, 1, 2: nothing after the last channel; else `CQ[φ]` takes the word, or the
record is all it writes. -/
theorem fetch_cases (word : Fin 4) :
    (r.fetches = false ∧ r.fetch n word = n) ∨
    (r.fetches = true ∧ ∃ v, r.coefRead (r.fetchAddr word.val) = some v ∧
      r.fetch n word = { n with filt := { n.filt with cq := n.filt.cq.set word.val v } }) ∨
    (r.fetches = true ∧ r.coefRead (r.fetchAddr word.val) = none ∧
      r.fetch n word = n.raise .uninitRead (.mem .cm (r.fetchAddr word.val))) := by
  unfold fetch
  cases r.fetches with
  | false => exact .inl ⟨rfl, rfl⟩
  | true =>
    cases h : r.coefRead (r.fetchAddr word.val) with
    | some v => exact .inr (.inl ⟨rfl, v, rfl, rfl⟩)
    | none => exact .inr (.inr ⟨rfl, rfl, rfl⟩)

/-- The fetch of phase 3: `CX` takes all four words, or the record is all it writes. -/
theorem fetchLast_cases :
    (r.fetches = false ∧ r.fetchLast n = n) ∨
    (r.fetches = true ∧ ∃ v, r.coefRead (r.fetchAddr 3) = some v ∧
      r.fetchLast n = { n with filt := { n.filt with cx := r.filt.cq.set 3 v } }) ∨
    (r.fetches = true ∧ r.coefRead (r.fetchAddr 3) = none ∧
      r.fetchLast n = n.raise .uninitRead (.mem .cm (r.fetchAddr 3))) := by
  unfold fetchLast
  cases r.fetches with
  | false => exact .inl ⟨rfl, rfl⟩
  | true =>
    cases h : r.coefRead (r.fetchAddr 3) with
    | some v => exact .inr (.inl ⟨rfl, v, rfl, rfl⟩)
    | none => exact .inr (.inr ⟨rfl, rfl, rfl⟩)

/-- All a state-port read writes: `SD`, or a record beside those there are. -/
theorem loadSd_keeps (a : Nat) :
    ∃ fs sd, r.loadSd n a = { n with faults := fs, filt := { n.filt with sd := sd } } ∧
      ∀ f ∈ n.faults, f ∈ fs := by
  rcases r.loadSd_cases n a with ⟨v, -, h⟩ | ⟨-, h⟩
  · exact ⟨_, v, h, fun _ hf => hf⟩
  · exact ⟨_, _, h, fun _ hf => mem_addFault.2 (.inl hf)⟩

/-- All a fetch of phases 0, 1, 2 writes: `CQ`, or a record; neither after the last channel. -/
theorem fetch_keeps (word : Fin 4) :
    ∃ fs cq, r.fetch n word = { n with faults := fs, filt := { n.filt with cq := cq } } ∧
      (∀ f ∈ n.faults, f ∈ fs) ∧ (r.fetches = false → cq = n.filt.cq) := by
  rcases r.fetch_cases n word with ⟨-, h⟩ | ⟨hf, v, -, h⟩ | ⟨-, -, h⟩
  · exact ⟨_, _, h, fun _ hf => hf, fun _ => rfl⟩
  · exact ⟨_, _, h, fun _ hf => hf, fun e => by simp [e] at hf⟩
  · exact ⟨_, _, h, fun _ hf => mem_addFault.2 (.inl hf), fun _ => rfl⟩

/-- All a fetch of phase 3 writes: `CX`, or a record; neither after the last channel. -/
theorem fetchLast_keeps :
    ∃ fs cx, r.fetchLast n = { n with faults := fs, filt := { n.filt with cx := cx } } ∧
      (∀ f ∈ n.faults, f ∈ fs) ∧ (r.fetches = false → cx = n.filt.cx) := by
  rcases r.fetchLast_cases n with ⟨-, h⟩ | ⟨hf, v, -, h⟩ | ⟨-, -, h⟩
  · exact ⟨_, _, h, fun _ hf => hf, fun _ => rfl⟩
  · exact ⟨_, _, h, fun _ hf => hf, fun e => by simp [e] at hf⟩
  · exact ⟨_, _, h, fun _ hf => mem_addFault.2 (.inl hf), fun _ => rfl⟩

/-! ## Slots (R205) -/

/-- A tick of slot `s`. -/
theorem slot_of {s p : Nat} (hp : p < 4) (h : r.filt.k = 4 * s + p) : r.slot = s := by
  unfold slot; omega

theorem phase_of {s p : Nat} (hp : p < 4) (h : r.filt.k = 4 * s + p) : r.phase = p := by
  unfold phase; omega

/-- Slot `s < N_ch` fetches channel `s`. -/
theorem fetches_of {s p : Nat} (hs : s < c.nCh) (hp : p < 4) (h : r.filt.k = 4 * s + p) :
    r.fetches = true ∧ r.fetchChan = ⟨s, hs⟩ := by
  have := r.slot_of hp h
  exact ⟨by simp [fetches, this, hs], Fin.ext (by simp [fetchChan, this, chanOf_val hs])⟩

/-- Slot `ch + 1` computes channel `ch`. -/
theorem calculates_of {p : Nat} (ch : Fin c.nCh) (hp : p < 4) (h : r.filt.k = 4 * (ch.val + 1) + p) :
    r.calculates = true ∧ r.calcChan = ch := by
  have := r.slot_of hp h
  exact ⟨by simp [calculates, this], Fin.ext (by simp [calcChan, this, chanOf_val])⟩

/-- The channel of a LOAD or SHIFT tick. -/
theorem walkChan_of {p : Nat} (i : Fin c.nCh) (hp : p < 2) (h : r.filt.k = 2 * i.val + p) :
    r.walkChan = i := by
  have : r.filt.k / 2 = i.val := by omega
  exact Fin.ext (by simp [walkChan, this, chanOf_val])

/-- Slot 0 computes nothing. -/
theorem calculates_slot_zero (h : r.filt.k < 4) : r.calculates = false := by
  exact decide_eq_false (by unfold slot; omega)

/-! ## The walks (R193) -/

/-- Before its last tick a walking state counts. -/
theorem walk_count {last : Nat} {next : FState} (h : r.filt.k ≠ last) :
    r.walk n last next =
      { n with filt := { n.filt with state := r.filt.state, k := r.filt.k + 1 } } := by
  simp [walk, h]

/-- After its last tick it goes on, `f_k` cleared. -/
theorem walk_leave {last : Nat} {next : FState} (h : r.filt.k = last) :
    r.walk n last next = { n with filt := { n.filt with state := next, k := 0 } } := by
  simp [walk, h]

/-! ## The computed channel -/

/-- In slot 0 no phase computes. -/
theorem calc_of_not (h : r.calculates = false) :
    r.calcP0 n = n ∧ r.calcP1 n = n ∧ r.calcP2 n = n ∧ r.calcP3 n = n := by
  simp [calcP0, calcP1, calcP2, calcP3, h]

/-- Phase 3 of a computed channel: the gated write to `SM`, its registers, and `clip`. -/
theorem calcP3_of (h : r.calculates = true) :
    (r.calcP3 n).sm = (if r.gate then n.sm.write c.memInit r.calcY1 r.calcY else n.sm) ∧
    (r.calcP3 n).filt = { n.filt with
      acc := r.calcSum
      ob := n.filt.ob.set r.calcChan r.calcWord
      dly := n.filt.dly.set r.calcChan
        (nextDly r.filt.lat[r.calcChan].enOut r.filt.dly[r.calcChan] r.calcDelay) } ∧
    (r.calcP3 n).faults = n.faults ∧
    (r.calcP3 n).outs = { n.outs with clip := some (clips c r.calcSum) } := by
  unfold calcP3
  rw [if_pos h]
  cases r.gate <;> exact ⟨rfl, rfl, rfl, rfl⟩

/-- The gate is open exactly when both enables are set and the counter has reached the threshold
(R213). -/
theorem gateOpen_iff (lat : ChanCtl c) (dly delay : BitVec delayWidth) :
    gateOpen lat dly delay = true ↔
      lat.enIir = true ∧ lat.enOut = true ∧ delay.toNat ≤ dly.toNat := by
  simp [gateOpen, and_assoc]

/-- The gate in slot `ch + 1` is channel `ch`'s (R213). -/
theorem gate_of {p : Nat} (ch : Fin c.nCh) (hp : p < 4) (h : r.filt.k = 4 * (ch.val + 1) + p) :
    r.gate = true ↔ r.filt.lat[ch].enIir = true ∧ r.filt.lat[ch].enOut = true ∧
      (cfgDelay c (r.fld .cfg)).toNat ≤ r.filt.dly[ch].toNat := by
  obtain ⟨-, rfl⟩ := r.calculates_of ch hp h
  exact gateOpen_iff _ _ _

/-- The address written back in slot `ch + 1` is that of channel `ch` and its profile (R214). -/
theorem calcY1_of {p : Nat} (ch : Fin c.nCh) (hp : p < 4) (h : r.filt.k = 4 * (ch.val + 1) + p) :
    r.calcY1 = r.filt.lat[ch].profile.toNat * 2 ^ c.C + ch.val := by
  obtain ⟨-, rfl⟩ := r.calculates_of ch hp h
  exact smY1_eq r.calcChan.isLt

/-- The address of the fetch in slot `s < N_ch` (R206). -/
theorem fetchAddr_of {p word : Nat} (s : Fin c.nCh) (hp : p < 4) (hw : word < 4)
    (h : r.filt.k = 4 * s.val + p) :
    r.fetchAddr word = s.val * 2 ^ (c.P + 2) + r.filt.lat[s].profile.toNat * 4 + word := by
  obtain ⟨-, h⟩ := r.fetches_of s.isLt hp h
  obtain rfl : r.fetchChan = s := h
  exact cmAddr_eq (BitVec.isLt _) hw

/-! ## Host operations -/

/-- Everything a `set_coefficient` can do (R322, R370, R376). -/
theorem setCoeff_cases (f : CoeffField) (ch prof : Nat) (v : Int) :
    (¬ (ch < c.nCh ∧ prof < 2 ^ c.P) ∧
      r.setCoeff f ch prof v = r.badOp 0 ch prof (c.idx f).toNat) ∨
    (∃ h : ch < c.nCh, prof < 2 ^ c.P ∧ r.pairActive ⟨ch, h⟩ prof = true ∧
      r.setCoeff f ch prof v = r.raise .coeffWriteActive (.coeff ch prof f)) ∨
    (∃ h : ch < c.nCh, prof < 2 ^ c.P ∧ r.pairActive ⟨ch, h⟩ prof = false ∧
      r.setCoeff f ch prof v =
        r.cmWriteHalf (coeffAddr c ch prof f) (isHigh (c.idx f)) (trunc c.K v)) := by
  unfold setCoeff
  by_cases h : ch < c.nCh ∧ prof < 2 ^ c.P
  · rw [dif_pos h]
    cases ha : r.pairActive ⟨ch, h.1⟩ prof with
    | true => exact .inr (.inl ⟨h.1, h.2, ha, by simp⟩)
    | false => exact .inr (.inr ⟨h.1, h.2, ha, by simp⟩)
  · rw [dif_neg h]; exact .inl ⟨h, rfl⟩

/-- Everything a `set_state` can do (R328, R372, R376). -/
theorem setState_cases (w : StateRef) (v : Int) :
    (refOk c w = false ∧ r.setState w v = r.badRef 2 w) ∨
    (refOk c w = true ∧ r.engineWritesSm = true ∧
      r.setState w v = r.raise .stateWriteConflict (.state w)) ∨
    (refOk c w = true ∧ r.engineWritesSm = false ∧
      r.setState w v = r.stWrite (smAddr c w) (trunc c.S v)) := by
  unfold setState
  cases refOk c w <;> cases r.engineWritesSm <;> simp

/-- Everything a `get_state` can do (R329, R371, R375, R376). -/
theorem getState_cases (w : StateRef) :
    (refOk c w = false ∧ r.getState w = (r.badRef 3 w).putHrd none) ∨
    (refOk c w = true ∧ (r.loading || r.shifting) = true ∧
      r.getState w = r.noHrd .stateReadBusy (.state w)) ∨
    (refOk c w = true ∧ (r.loading || r.shifting) = false ∧ ∃ v, r.stRead (smAddr c w) = some v ∧
      r.getState w = r.putHrd (some (.state v))) ∨
    (refOk c w = true ∧ (r.loading || r.shifting) = false ∧ r.stRead (smAddr c w) = none ∧
      r.getState w = r.noHrd .uninitRead (.mem .sm (smAddr c w))) := by
  unfold getState
  cases refOk c w <;> cases (r.loading || r.shifting) <;> cases r.stRead (smAddr c w) <;> simp

/-- Everything a `set_ctrl` can do (R335, R373, R376). -/
theorem setCtrl_cases (ch prof : Nat) (enOut enIir : Bool) :
    (¬ (ch < c.nCh ∧ prof < 2 ^ c.P) ∧
      r.setCtrl ch prof enOut enIir = r.badOp 4 ch prof (ctrlKind enOut enIir).toNat) ∨
    (∃ h : ch < c.nCh, prof < 2 ^ c.P ∧ r.fDone = true ∧
      r.setCtrl ch prof enOut enIir =
        { r with ctrl := r.ctrl.set ch (ChanCtl.mk (BitVec.ofNat c.P prof) enOut enIir) h }) ∨
    (ch < c.nCh ∧ prof < 2 ^ c.P ∧ r.fDone = false ∧
      r.setCtrl ch prof enOut enIir = r.raise .ctrlWriteBusy (.chan ch)) := by
  unfold setCtrl
  by_cases h : ch < c.nCh ∧ prof < 2 ^ c.P
  · rw [dif_pos h]
    cases r.fDone with
    | true => exact .inr (.inl ⟨h.1, h.2, rfl, by simp⟩)
    | false => exact .inr (.inr ⟨h.1, h.2, rfl, by simp⟩)
  · rw [dif_neg h]; exact .inl ⟨h, rfl⟩

end Regs

/-- The memories at reset are canonical and lie inside their spaces. -/
theorem reset_memOk : State.reset.regs.MemOk := ⟨rfl, rfl, rfl, rfl⟩

end Sys2Proof.Machine
end

