-- ==== Sys2Proof/Laws/PerInstr.lean ====
section
/-! SUPPORT. Statements made per instruction. `TableRow`: the word an instruction encodes to, at the
widths the opcode table is written for, has its own row's format and its row's fixed bits (the
table's `match` under its `mask`), whatever its operands. The rows are transcribed from
spec/opcode_table.json. -/

namespace Sys2Proof.Laws.TableRow

open Sys2Proof

/-- A row's format. -/
inductive Format where
  | hostop | engine | acq | out
deriving DecidableEq, Repr

/-- A row's format, `match` and `mask`. -/
structure Row where
  format : Format
  fixed : Nat
  mask : Nat
deriving DecidableEq, Repr

/-- The row of an instruction. -/
def row : Instr → Row
  | .setCoeffFtw1 .. => ⟨.hostop, 0x0000, 0x3807⟩
  | .setCoeffB1 .. => ⟨.hostop, 0x0001, 0x3807⟩
  | .setCoeffPow .. => ⟨.hostop, 0x0002, 0x3807⟩
  | .setCoeffCfg .. => ⟨.hostop, 0x0003, 0x3807⟩
  | .setCoeffOffset .. => ⟨.hostop, 0x0004, 0x3807⟩
  | .setCoeffA1 .. => ⟨.hostop, 0x0005, 0x3807⟩
  | .setCoeffFtw0 .. => ⟨.hostop, 0x0006, 0x3807⟩
  | .setCoeffB0 .. => ⟨.hostop, 0x0007, 0x3807⟩
  | .getCoeffFtw1 .. => ⟨.hostop, 0x0800, 0x3807⟩
  | .getCoeffB1 .. => ⟨.hostop, 0x0801, 0x3807⟩
  | .getCoeffPow .. => ⟨.hostop, 0x0802, 0x3807⟩
  | .getCoeffCfg .. => ⟨.hostop, 0x0803, 0x3807⟩
  | .getCoeffOffset .. => ⟨.hostop, 0x0804, 0x3807⟩
  | .getCoeffA1 .. => ⟨.hostop, 0x0805, 0x3807⟩
  | .getCoeffFtw0 .. => ⟨.hostop, 0x0806, 0x3807⟩
  | .getCoeffB0 .. => ⟨.hostop, 0x0807, 0x3807⟩
  | .setStateY1 .. => ⟨.hostop, 0x1000, 0x3807⟩
  | .setStateX0 .. => ⟨.hostop, 0x1001, 0x38FF⟩
  | .setStateX1 .. => ⟨.hostop, 0x1002, 0x38FF⟩
  | .getStateY1 .. => ⟨.hostop, 0x1800, 0x3807⟩
  | .getStateX0 .. => ⟨.hostop, 0x1801, 0x38FF⟩
  | .getStateX1 .. => ⟨.hostop, 0x1802, 0x38FF⟩
  | .setCtrl .. => ⟨.hostop, 0x2000, 0x3804⟩
  | .idleWait => ⟨.engine, 0x0, 0xC⟩
  | .loadSx => ⟨.engine, 0x4, 0xF⟩
  | .loadWr => ⟨.engine, 0x5, 0xF⟩
  | .procP0 => ⟨.engine, 0x8, 0xF⟩
  | .procP1 => ⟨.engine, 0x9, 0xF⟩
  | .procP2 => ⟨.engine, 0xA, 0xF⟩
  | .procP3 => ⟨.engine, 0xB, 0xF⟩
  | .shiftRd => ⟨.engine, 0xC, 0xF⟩
  | .shiftWr => ⟨.engine, 0xD, 0xF⟩
  | .acqIdle => ⟨.acq, 0x0, 0x7⟩
  | .acqCnvh => ⟨.acq, 0x1, 0x7⟩
  | .acqConv => ⟨.acq, 0x2, 0x7⟩
  | .acqRead => ⟨.acq, 0x3, 0x7⟩
  | .acqRtt => ⟨.acq, 0x4, 0x7⟩
  | .outStart => ⟨.out, 0x0, 0x1⟩
  | .outBusy => ⟨.out, 0x1, 0x1⟩

/-- A word's format and its bits as a number. -/
def bits {c : Config} : Code c → Format × Nat
  | .hostop sel _ => (.hostop, sel.toNat)
  | .engine p => (.engine, p.toNat)
  | .acq a => (.acq, a.toNat)
  | .out b => (.out, b.toNat)

/-- The instruction's word lies in its row. -/
def Statement (i : Instr) : Prop :=
  (bits (encode Config.reference i)).1 = (row i).format ∧
    (bits (encode Config.reference i)).2 &&& (row i).mask = (row i).fixed

/-- Masking off the operand fields of a selector leaves its `op` and `kind`. -/
theorem selector_masked (op kind ch : BitVec 3) (prof : BitVec 5) :
    (op ++ ch ++ prof ++ kind) &&& (0x3807 : BitVec 14) = op ++ (0 : BitVec 8) ++ kind := by
  apply BitVec.eq_of_getLsbD_eq
  intro i hi
  simp only [BitVec.getLsbD_and, BitVec.getLsbD_append]
  interval_cases i <;> simp

/-- The fixed bits of a selector whose profile is free. -/
theorem selector_fixed (op kind ch : BitVec 3) (prof : BitVec 5) :
    (op ++ ch ++ prof ++ kind).toNat &&& 0x3807 = op.toNat * 2 ^ 11 + kind.toNat := by
  have h := congrArg BitVec.toNat (selector_masked op kind ch prof)
  rw [BitVec.toNat_and] at h
  rw [show (0x3807 : Nat) = (0x3807 : BitVec 14).toNat from rfl, h]
  clear h
  revert op kind; decide

/-- The fixed bits of a selector whose profile is 0. -/
theorem selector_fixed_noProf (op kind ch : BitVec 3) :
    (op ++ ch ++ (0 : BitVec 5) ++ kind).toNat &&& 0x38FF = op.toNat * 2 ^ 11 + kind.toNat := by
  revert op kind ch; decide

/-- The fixed bits of a `set_ctrl` selector. -/
theorem selector_fixed_ctrl (ch : BitVec 3) (prof : BitVec 5) (o i : Bool) :
    ((4 : BitVec 3) ++ ch ++ prof ++ ctrlKind o i).toNat &&& 0x3804 = 0x2000 := by
  revert ch prof o i; decide

theorem setCoeffFtw1 (ch prof : Nat) (v : Int) : Statement (.setCoeffFtw1 ch prof v) :=
  ⟨rfl, selector_fixed _ _ _ _⟩
theorem setCoeffB1 (ch prof : Nat) (v : Int) : Statement (.setCoeffB1 ch prof v) :=
  ⟨rfl, selector_fixed _ _ _ _⟩
theorem setCoeffPow (ch prof : Nat) (v : Int) : Statement (.setCoeffPow ch prof v) :=
  ⟨rfl, selector_fixed _ _ _ _⟩
theorem setCoeffCfg (ch prof : Nat) (v : Int) : Statement (.setCoeffCfg ch prof v) :=
  ⟨rfl, selector_fixed _ _ _ _⟩
theorem setCoeffOffset (ch prof : Nat) (v : Int) : Statement (.setCoeffOffset ch prof v) :=
  ⟨rfl, selector_fixed _ _ _ _⟩
theorem setCoeffA1 (ch prof : Nat) (v : Int) : Statement (.setCoeffA1 ch prof v) :=
  ⟨rfl, selector_fixed _ _ _ _⟩
theorem setCoeffFtw0 (ch prof : Nat) (v : Int) : Statement (.setCoeffFtw0 ch prof v) :=
  ⟨rfl, selector_fixed _ _ _ _⟩
theorem setCoeffB0 (ch prof : Nat) (v : Int) : Statement (.setCoeffB0 ch prof v) :=
  ⟨rfl, selector_fixed _ _ _ _⟩
theorem getCoeffFtw1 (ch prof : Nat) : Statement (.getCoeffFtw1 ch prof) :=
  ⟨rfl, selector_fixed _ _ _ _⟩
theorem getCoeffB1 (ch prof : Nat) : Statement (.getCoeffB1 ch prof) :=
  ⟨rfl, selector_fixed _ _ _ _⟩
theorem getCoeffPow (ch prof : Nat) : Statement (.getCoeffPow ch prof) :=
  ⟨rfl, selector_fixed _ _ _ _⟩
theorem getCoeffCfg (ch prof : Nat) : Statement (.getCoeffCfg ch prof) :=
  ⟨rfl, selector_fixed _ _ _ _⟩
theorem getCoeffOffset (ch prof : Nat) : Statement (.getCoeffOffset ch prof) :=
  ⟨rfl, selector_fixed _ _ _ _⟩
theorem getCoeffA1 (ch prof : Nat) : Statement (.getCoeffA1 ch prof) :=
  ⟨rfl, selector_fixed _ _ _ _⟩
theorem getCoeffFtw0 (ch prof : Nat) : Statement (.getCoeffFtw0 ch prof) :=
  ⟨rfl, selector_fixed _ _ _ _⟩
theorem getCoeffB0 (ch prof : Nat) : Statement (.getCoeffB0 ch prof) :=
  ⟨rfl, selector_fixed _ _ _ _⟩
theorem setStateY1 (ch prof : Nat) (v : Int) : Statement (.setStateY1 ch prof v) :=
  ⟨rfl, selector_fixed _ _ _ _⟩
theorem setStateX0 (ch : Nat) (v : Int) : Statement (.setStateX0 ch v) :=
  ⟨rfl, selector_fixed_noProf _ _ _⟩
theorem setStateX1 (ch : Nat) (v : Int) : Statement (.setStateX1 ch v) :=
  ⟨rfl, selector_fixed_noProf _ _ _⟩
theorem getStateY1 (ch prof : Nat) : Statement (.getStateY1 ch prof) :=
  ⟨rfl, selector_fixed _ _ _ _⟩
theorem getStateX0 (ch : Nat) : Statement (.getStateX0 ch) := ⟨rfl, selector_fixed_noProf _ _ _⟩
theorem getStateX1 (ch : Nat) : Statement (.getStateX1 ch) := ⟨rfl, selector_fixed_noProf _ _ _⟩
theorem setCtrl (ch prof : Nat) (enOut enIir : Bool) : Statement (.setCtrl ch prof enOut enIir) :=
  ⟨rfl, selector_fixed_ctrl _ _ enOut enIir⟩
theorem idleWait : Statement .idleWait := ⟨rfl, by decide⟩
theorem loadSx : Statement .loadSx := ⟨rfl, by decide⟩
theorem loadWr : Statement .loadWr := ⟨rfl, by decide⟩
theorem procP0 : Statement .procP0 := ⟨rfl, by decide⟩
theorem procP1 : Statement .procP1 := ⟨rfl, by decide⟩
theorem procP2 : Statement .procP2 := ⟨rfl, by decide⟩
theorem procP3 : Statement .procP3 := ⟨rfl, by decide⟩
theorem shiftRd : Statement .shiftRd := ⟨rfl, by decide⟩
theorem shiftWr : Statement .shiftWr := ⟨rfl, by decide⟩
theorem acqIdle : Statement .acqIdle := ⟨rfl, by decide⟩
theorem acqCnvh : Statement .acqCnvh := ⟨rfl, by decide⟩
theorem acqConv : Statement .acqConv := ⟨rfl, by decide⟩
theorem acqRead : Statement .acqRead := ⟨rfl, by decide⟩
theorem acqRtt : Statement .acqRtt := ⟨rfl, by decide⟩
theorem outStart : Statement .outStart := ⟨rfl, by decide⟩
theorem outBusy : Statement .outBusy := ⟨rfl, by decide⟩

end Sys2Proof.Laws.TableRow
end

