-- ==== Sys2Proof/Tests/Slice0.lean ====
section
/-! SUPPORT. The model's own tests. Expected results are the spec's worked examples
(95_test_vectors.md, and the examples inside the rules) or hand calculation from its formulas; then,
for every statement that has hypotheses, a state and operands that meet them together. -/

namespace Sys2Proof.Tests

open Sys2Proof.Machine

/-! ## Configurations and small states -/

/-- The configuration of 95_test_vectors.md, with a command byte of the test's own (it is OPEN). -/
def cfg : Config := { Config.reference with updDelay := 2, cmdByte := 0xA5, memInit := .zero }

/-- The same, with nothing defined at power-up. -/
def cfgU : Config := { cfg with memInit := .unspecified }

/-- The CORE at power-up. -/
def base : Regs cfg := Regs.atPowerUp cfg

/-- The CORE at power-up with undefined memories. -/
def baseU : Regs cfgU := Regs.atPowerUp cfgU

/-- A tick's inputs. -/
def inp (enable : Bool) (op : Option (HostOp cfg)) : TickInput cfg :=
  { TickInput.quiet cfg enable with op := op }

/-- What a next state must satisfy. -/
def check (x : Host.Outcome State Fault Refusal) (p : State → Bool) : Bool :=
  match x with
  | .next t => p t
  | .fault _ => false
  | .refused _ => false

/-- Channel 3 of section 1's worked example, its slot's phase `p`: coefficients, enables, memories. -/
def worked (p : Nat) : Regs cfg :=
  { base with
    filt := { base.filt with
      state := .process
      k := 16 + p
      lat := base.filt.lat.set 3 (ChanCtl.mk 5 true true)
      cx := #v[1337#18 ++ 0x1929#18, 3#18 ++ 0x1333#18, 309#18 ++ 5425#18, 823#18 ++ 0x1727#18] }
    sm := [(43, 4421), (259, 321), (267, 1859)] }

/-! ## Well-formedness: an ill-formed term for each check -/

theorem test_wellFormed_refuses_channel :
    (Instr.setCoeffA1 8 0 0).wellFormed cfg = false ∧ (Instr.getCoeffB0 8 31).wellFormed cfg = false ∧
    (Instr.setStateY1 8 0 0).wellFormed cfg = false ∧ (Instr.setStateX0 8 0).wellFormed cfg = false ∧
    (Instr.setStateX1 8 0).wellFormed cfg = false ∧ (Instr.getStateY1 8 0).wellFormed cfg = false ∧
    (Instr.getStateX0 8).wellFormed cfg = false ∧ (Instr.getStateX1 8).wellFormed cfg = false ∧
    (Instr.setCtrl 8 0 true true).wellFormed cfg = false := by decide

theorem test_wellFormed_refuses_profile :
    (Instr.setCoeffFtw0 0 32 0).wellFormed cfg = false ∧ (Instr.getCoeffCfg 7 32).wellFormed cfg = false ∧
    (Instr.setStateY1 0 32 0).wellFormed cfg = false ∧ (Instr.getStateY1 7 32).wellFormed cfg = false ∧
    (Instr.setCtrl 0 32 true true).wellFormed cfg = false := by decide

theorem test_wellFormed_accepts_last :
    (Instr.setCoeffB0 7 31 (-1)).wellFormed cfg = true ∧ (Instr.setStateX1 7 0).wellFormed cfg = true ∧
    Instr.procP3.wellFormed cfg = true := by decide

/-! ## Decoding: words written out from R117, R123, R126 (`op ch prof kind`) -/

/-- R341's set selectors. -/
theorem test_decode_set_coefficient :
    decodeTableWord 14 0b00001100101000 = some (.setCoeffFtw1 3 5 0) ∧
    decodeTableWord 14 0b00001100101001 = some (.setCoeffB1 3 5 0) ∧
    decodeTableWord 14 0b00001100101010 = some (.setCoeffPow 3 5 0) ∧
    decodeTableWord 14 0b00001100101011 = some (.setCoeffCfg 3 5 0) ∧
    decodeTableWord 14 0b00001100101100 = some (.setCoeffOffset 3 5 0) ∧
    decodeTableWord 14 0b00001100101101 = some (.setCoeffA1 3 5 0) ∧
    decodeTableWord 14 0b00001100101110 = some (.setCoeffFtw0 3 5 0) ∧
    decodeTableWord 14 0b00001100101111 = some (.setCoeffB0 3 5 0) ∧
    decodeTableWord 14 0b00011111111111 = some (.setCoeffB0 7 31 0) := by decide

/-- R341's get selectors. -/
theorem test_decode_get_coefficient :
    decodeTableWord 14 0b00101100101000 = some (.getCoeffFtw1 3 5) ∧
    decodeTableWord 14 0b00101100101001 = some (.getCoeffB1 3 5) ∧
    decodeTableWord 14 0b00101100101010 = some (.getCoeffPow 3 5) ∧
    decodeTableWord 14 0b00101100101011 = some (.getCoeffCfg 3 5) ∧
    decodeTableWord 14 0b00101100101100 = some (.getCoeffOffset 3 5) ∧
    decodeTableWord 14 0b00101100101101 = some (.getCoeffA1 3 5) ∧
    decodeTableWord 14 0b00101100101110 = some (.getCoeffFtw0 3 5) ∧
    decodeTableWord 14 0b00101100101111 = some (.getCoeffB0 3 5) ∧
    decodeTableWord 14 0b00111111111111 = some (.getCoeffB0 7 31) := by decide

/-- The selectors of section 3's state table. -/
theorem test_decode_state :
    decodeTableWord 14 0b01001100101000 = some (.setStateY1 3 5 0) ∧
    decodeTableWord 14 0b01011111111000 = some (.setStateY1 7 31 0) ∧
    decodeTableWord 14 0b01001100000001 = some (.setStateX0 3 0) ∧
    decodeTableWord 14 0b01001100000010 = some (.setStateX1 3 0) ∧
    decodeTableWord 14 0b01101100101000 = some (.getStateY1 3 5) ∧
    decodeTableWord 14 0b01100100000001 = some (.getStateX0 1) ∧
    decodeTableWord 14 0b01111100000010 = some (.getStateX1 7) := by decide

/-- R335's selector and section 3's `set_ctrl` list. -/
theorem test_decode_set_ctrl :
    decodeTableWord 14 0b10001100101011 = some (.setCtrl 3 5 true true) ∧
    decodeTableWord 14 0x2329 = some (.setCtrl 3 5 false true) ∧
    decodeTableWord 14 0x232A = some (.setCtrl 3 5 true false) ∧
    decodeTableWord 14 0x2113 = some (.setCtrl 1 2 true true) ∧
    decodeTableWord 14 0x2000 = some (.setCtrl 0 0 false false) := by decide

/-- The illegal selectors of section 3 and R118. -/
theorem test_decode_refuses_illegal_selectors :
    decodeTableWord 14 0x2800 = none ∧ decodeTableWord 14 0x3000 = none ∧
    decodeTableWord 14 0x3FFF = none ∧ decodeTableWord 14 0x1003 = none ∧
    decodeTableWord 14 0x1B07 = none ∧ decodeTableWord 14 0x1009 = none ∧
    decodeTableWord 14 0x2004 = none ∧ decodeTableWord 16 0x4000 = none := by decide

/-- The refusals by name (R118, R123, R126). -/
theorem test_decode_names_its_refusals :
    decode cfg (.hostop 0x2800 0) = .error .illegalOp ∧
    decode cfg (.hostop 0x1003 0) = .error .illegalKind ∧
    decode cfg (.hostop 0x1009 0) = .error .profileGiven ∧
    decode cfg (.hostop 0x2004 0) = .error .ctrlKindBit ∧
    decode cfg (.engine 0b0110) = .error .noEnginePattern ∧
    decode cfg (.engine 0b1111) = .error .noEnginePattern ∧
    decode cfg (.acq 0b101) = .error .noAcqState ∧ decode cfg (.acq 0b111) = .error .noAcqState := by
  decide

/-- R123's patterns `{st, q}`; in IDLE `q` is ignored. -/
theorem test_decode_engine :
    decodeTableWord 4 0b0000 = some .idleWait ∧ decodeTableWord 4 0b0011 = some .idleWait ∧
    decodeTableWord 4 0b0100 = some .loadSx ∧ decodeTableWord 4 0b0101 = some .loadWr ∧
    decodeTableWord 4 0b1000 = some .procP0 ∧ decodeTableWord 4 0b1001 = some .procP1 ∧
    decodeTableWord 4 0b1010 = some .procP2 ∧ decodeTableWord 4 0b1011 = some .procP3 ∧
    decodeTableWord 4 0b1100 = some .shiftRd ∧ decodeTableWord 4 0b1101 = some .shiftWr := by decide

/-- R126's patterns. -/
theorem test_decode_acq_and_out :
    decodeTableWord 3 0b000 = some .acqIdle ∧ decodeTableWord 3 0b001 = some .acqCnvh ∧
    decodeTableWord 3 0b010 = some .acqConv ∧ decodeTableWord 3 0b011 = some .acqRead ∧
    decodeTableWord 3 0b100 = some .acqRtt ∧ decodeTableWord 1 0b0 = some .outStart ∧
    decodeTableWord 1 0b1 = some .outBusy := by decide

/-- The data operand stands above the selector's two bytes (P1's tick 1). -/
theorem test_decode_data_operand :
    decodeTableWord 34 (0x00135 * 2 ^ 16 + 0x032D) = some (.setCoeffA1 3 5 0x135) := by decide

/-- Words of section 3 from their instructions. -/
theorem test_encode_tabled_words :
    encode Config.reference (.setStateY1 7 31 5) = .hostop 0x17F8 5 ∧
    encode Config.reference (.getStateX1 7) = .hostop 0x1F02 0 ∧
    encode Config.reference (.setCoeffCfg 1 2 513) = .hostop 0x0113 513 ∧
    encode Config.reference (.setCtrl 0 0 true true) = .hostop 0x2003 0 := by decide

/-- `fieldAt` is read at the configuration's own field order (R112). -/
theorem test_decode_uses_the_field_order :
    decode { cfg with fieldIndex := { cfg.fieldIndex with ftw1 := 5, a1 := 0 } } (.hostop 0x0328 9) =
      .ok (.setCoeffA1 3 5 9) := by decide

/-! ## Configuration (R9, R362) -/

theorem test_derived_quantities :
    cfg.tRead = 16 ∧ cfg.tAcq = 32 ∧ cfg.tFilter = 53 ∧ cfg.tOutput = 146 ∧ cfg.tCycle = 146 ∧
    { cfg with acq := { cfg.acq with lanes := 1 } }.tAcq = 80 ∧
    { cfg with out := { cfg.out with clkDivisor := 2 } }.tOutput = 291 ∧
    { cfg with out := { cfg.out with clkDivisor := 3 } }.tCycle = 436 := by decide

/-- CF9 refuses two fields with one index, and `t_read` without lanes is 0 (log entry 34). -/
theorem test_checks :
    cfg.valid = true ∧ { cfg with acq := { cfg.acq with lanes := 0 } }.tRead = 0 ∧
    { cfg with fieldIndex := { cfg.fieldIndex with a1 := 0 } }.failedChecks = [.cf9] := by decide

/-! ## Addresses (section 3) -/

theorem test_addresses :
    cmAddr cfg 3 5 2 = 0x196 ∧ cmAddr cfg 1 2 1 = 0x89 ∧ cmAddr cfg 7 31 3 = 0x3FF ∧
    smAddr cfg (.y1 3 5) = 43 ∧ smAddr cfg (.y1 7 31) = 255 ∧ smAddr cfg (.x0 3) = 259 ∧
    smAddr cfg (.x1 3) = 267 ∧ smAddr cfg (.x1 7) = 271 ∧ cmWords cfg = 1024 ∧ smWords cfg = 272 := by
  decide

/-! ## Memories (R51) -/

/-- A write of what an unlisted address reads as unlists the address; with `unspecified` it marks it. -/
theorem test_memory_canonical :
    Mem.write .zero [(4, 9#8)] 4 0 = [] ∧ Mem.write .unspecified [(4, 9#8)] 2 0 = [(2, 0#8), (4, 9#8)] ∧
    Mem.read .zero ([] : Mem 8) 7 = some 0 ∧ Mem.read .unspecified ([] : Mem 8) 7 = none ∧
    Mem.wf .zero [(4, 0#8)] = false ∧ Mem.wf .unspecified [(4, 0#8), (4, 1#8)] = false := by decide

/-! ## Arithmetic (section 2) -/

/-- Pre-shift sum, `y` and amplitude of one row of section 2. -/
def row (a1 b0 b1 off y1 x0 x1 : Int) : Int × Int × Nat × Bool :=
  let a := fun v : Int => BitVec.ofInt 25 v
  let b := fun v : Int => BitVec.ofInt 18 v
  let o := widenOffset cfg (b off)
  let s := mac cfg (mac cfg (mac cfg 0 0 (a y1) (b a1)) o (a x0) (b b0)) o (a x1) (b b1)
  (sval s, sval (clip cfg s), (amplitude cfg (clip cfg s)).toNat, clips cfg s)

/-- F2's pre-shift sum is the one R218's formula gives, `−1147008 + 4200592 + 6824048`; the table of
section 2 prints 9878064 there, with the same `y` (log entry 33). -/
theorem test_arithmetic_F1_to_F7 :
    row 309 823 1337 5425 4421 321 1859 = (7602245, 3712, 3, false) ∧
    row 309 823 1337 5425 3712 321 321 = (9877632, 4823, 4, false) ∧
    row (-4096) 0 0 0 (2 ^ 23) 0 0 = (2 ^ 35, 16777215, 16383, true) ∧
    row 2048 0 0 0 1000 0 0 = (-2048000, 0, 0, true) ∧
    row (-2048) 0 0 0 1000 0 0 = (2048000, 1000, 0, false) ∧
    row 0 0 0 0 77 (-5) 9 = (0, 0, 0, false) ∧
    row (-1) 0 0 0 2047 0 0 = (2047, 0, 0, false) := by decide

theorem test_arithmetic_F8_to_F14 :
    row (-1) 0 0 0 2048 0 0 = (2048, 1, 0, false) ∧
    row 1 0 0 0 1 0 0 = (-1, 0, 0, true) ∧
    row (-131072) (-131072) 0 (-131072) 0 32767 0 = (21474705408, 10485696, 10239, false) ∧
    row 0 (-131072) (-131072) (-131072) 0 32767 32767 = (42949410816, 16777215, 16383, true) ∧
    row 0 2048 0 0 0 (-32768) 0 = (67108864, 32768, 32, false) ∧
    row 0 2048 (-2048) 0 0 300 100 = (-409600, 0, 0, true) ∧
    row 0 (-2048) 2048 0 0 300 100 = (409600, 200, 0, false) := by decide

/-- Rows G-a to G-h: the gate and the next counter. -/
theorem test_gate_vectors :
    let lat := fun iir out => ChanCtl.mk (c := cfg) 0 out iir
    gateOpen (lat true true) 0 0 = true ∧ gateOpen (lat false true) 0 0 = false ∧
    gateOpen (lat true false) 5 0 = false ∧ nextDly false 5 0 = 0 ∧
    gateOpen (lat true true) 0 2 = false ∧ nextDly true 0 2 = 1 ∧
    gateOpen (lat true true) 1 2 = false ∧ nextDly true 1 2 = 2 ∧
    gateOpen (lat true true) 2 2 = true ∧ nextDly true 2 2 = 2 ∧
    gateOpen (lat true true) 255 255 = true ∧ nextDly true 255 255 = 255 := by decide

/-- R114's fields of a `cfg` word with its unused bits set (section 3's `0x3FF03`). -/
theorem test_cfg_fields :
    (cfgSel cfg 0x3FF03#18).toNat = 3 ∧ (cfgDelay cfg 0x3FF03#18).toNat = 0xFF ∧
    (outField cfg 0x3ABCD#18).toNat = 0xABCD := by decide

/-- Section 6's frame vectors under the command byte of the test. -/
theorem test_frames :
    (frame cfg (OutWord.mk 0x1727 0x1929 0x1333 3)).toNat = 0xA50003133319291727 ∧
    (frame cfg (OutWord.mk 0 0 0 0x3FFF)).toNat = 0xA53FFF000000000000 ∧
    (frame cfg (OutWord.mk 0xFFFF 0xFFFF 0xFFFF 0x3FFF)).toNat = 0xA53FFFFFFFFFFFFFFF ∧
    (frame cfg (OutWord.mk 1 0 0 0)).toNat = 0xA50000000000000001 := by decide

/-- R121: `CMD_BYTE[7]` leaves first. -/
theorem test_link_order :
    (linkBits (frame cfg (OutWord.mk 1 0 0 0))).take 8 =
      [true, false, true, false, false, true, false, true] ∧
    (linkBits (frame cfg (OutWord.mk 1 0 0 0))).getLast? = some true := by decide

/-- Section 3's lane word `0x01410743` on lane 1. -/
theorem test_lane_word :
    let bits := linkBits 0x01410743#32
    laneWord bits = 0x01410743 ∧ bits.take 8 = [false, false, false, false, false, false, false, true] ∧
    (laneSample cfg [[], bits] 2).toNat = 0x0141 ∧ (laneSample cfg [[], bits] 3).toNat = 0x0743 := by decide

/-! ## AcquisitionController (R152 to R156, row A1) -/

/-- An acquisition state with its countdown. -/
def acqAt (st : AcqState) (cnt : Nat) : Regs cfg :=
  { base with acq := { base.acq with state := st, cnt := cnt } }

/-- `enable` driven, the scheduler's counter at 0: a start pulse. -/
def started (r : Regs cfg) : Regs cfg := { r with inp := inp true none, sched := { r.sched with cnt := 0 } }

theorem test_acqIdle_starts :
    check (exec .acqIdle ⟨cfg, started base⟩) (fun t =>
      t.regs.acq.state == .cnvh && t.regs.acq.cnt == 3 && t.regs.faults.isEmpty) = true ∧
    check (exec .acqIdle ⟨cfg, base⟩) (fun t => t.regs.acq.state == .idle) = true := by decide

theorem test_acqCnvh :
    check (exec .acqCnvh ⟨cfg, acqAt .cnvh 0⟩) (fun t =>
      t.regs.acq.state == .conv && t.regs.acq.cnt == 6) = true ∧
    check (exec .acqCnvh ⟨cfg, acqAt .cnvh 3⟩) (fun t =>
      t.regs.acq.state == .cnvh && t.regs.acq.cnt == 2) = true := by decide

theorem test_acqConv :
    check (exec .acqConv ⟨cfg, acqAt .conv 0⟩) (fun t =>
      t.regs.acq.state == .read && t.regs.acq.cnt == 15) = true := by decide

theorem test_acqRead :
    check (exec .acqRead ⟨cfg, acqAt .read 0⟩) (fun t =>
      t.regs.acq.state == .rtt && t.regs.acq.cnt == 3) = true := by decide

/-- The driven sample arrives; the acquisition is done. -/
theorem test_acqRtt_delivers :
    let r := { acqAt .rtt 0 with
      inp := { inp false none with samples := Vector.replicate 8 (some 0x0141) } }
    check (exec .acqRtt ⟨cfg, r⟩) (fun t =>
      t.regs.acq.state == .idle && t.regs.acq.data.toList.map BitVec.toNat == List.replicate 8 321 &&
      t.regs.draws == 1) = true := by decide

/-- R374: a start at a busy acquisition is recorded and not taken. -/
theorem test_acq_busy_start :
    check (exec .acqRead ⟨cfg, started (acqAt .read 5)⟩) (fun t =>
      t.regs.acq.state == .read && t.regs.acq.cnt == 4 &&
      t.regs.faults == [⟨.startBusyAcq, 0, .none⟩]) = true := by decide

/-! ## FilterEngine -/

/-- An engine state at a walk's index. -/
def filtAt (st : FState) (k : Nat) : Regs cfg :=
  { base with filt := { base.filt with state := st, k := k } }

/-- R196: a start latches ChannelControl. -/
theorem test_idleWait_latches :
    let r := { base with
      sched := { base.sched with token0 := true }
      ctrl := base.ctrl.set 3 (ChanCtl.mk 5 true false) }
    check (exec .idleWait ⟨cfg, r⟩) (fun t =>
      t.regs.filt.state == .load && t.regs.filt.k == 0 &&
      t.regs.filt.lat.toList.map (fun l => (l.profile.toNat, l.enOut, l.enIir)) ==
        [(0, false, false), (0, false, false), (0, false, false), (5, true, false), (0, false, false),
         (0, false, false), (0, false, false), (0, false, false)]) = true := by decide

/-- Rows L1 to L4. -/
theorem test_loadSx_widens :
    let r := fun k : Nat => { filtAt .load k with
      acq := { base.acq with data := #v[0x8000, 0xC000, 0xFFFF, 0x0141, 0, 0, 0, 0] } }
    check (exec .loadSx ⟨cfg, r 0⟩) (fun t => t.regs.filt.sx.toNat == 0x1FF8000) = true ∧
    check (exec .loadSx ⟨cfg, r 2⟩) (fun t => t.regs.filt.sx.toNat == 0x1FFC000) = true ∧
    check (exec .loadSx ⟨cfg, r 4⟩) (fun t => t.regs.filt.sx.toNat == 0x1FFFFFF) = true ∧
    check (exec .loadSx ⟨cfg, r 6⟩) (fun t =>
      t.regs.filt.sx.toNat == 0x0000141 && t.regs.filt.k == 7) = true := by decide

/-- R377. -/
theorem test_loadSx_invalid :
    let r := { filtAt .load 6 with acq := { base.acq with state := .rtt, cnt := 2 } }
    check (exec .loadSx ⟨cfg, r⟩) (fun t =>
      t.regs.faults == [⟨.adcDataInvalid, 0, .chan 3⟩] && t.regs.filt.sx.toNat == 0) = true := by decide

/-- Row L1: `sm_x0(3)` is word 259; after channel 7 PROCESS begins. -/
theorem test_loadWr_stores :
    let r := fun k : Nat => { filtAt .load k with
      filt := { base.filt with state := .load, k := k, sx := 0x141 } }
    check (exec .loadWr ⟨cfg, r 7⟩) (fun t =>
      t.regs.sm.map (fun p => (p.1, p.2.toNat)) == [(259, 0x141)] && t.regs.filt.k == 8) = true ∧
    check (exec .loadWr ⟨cfg, r 15⟩) (fun t =>
      t.regs.filt.state == .process && t.regs.filt.k == 0) = true := by decide

/-- Slot 3 fetches word 0 of (3, 5), address `0x194`: `{b1, ftw1}` (section 3's words). -/
theorem test_procP0_fetches :
    let r := { filtAt .process 12 with
      filt := { (worked 0).filt with k := 12 }
      cm := [(2 * 0x194, 0x01929), (2 * 0x194 + 1, 0x00539)] }
    check (exec .procP0 ⟨cfg, r⟩) (fun t => t.regs.filt.cq[0].toNat == 0x014E41929) = true := by decide

/-- Section 1: phase 0 reads `y1` and clears the accumulator. -/
theorem test_procP0_reads_y1 :
    let r := { worked 0 with filt := { (worked 0).filt with acc := 77 } }
    check (exec .procP0 ⟨cfg, r⟩) (fun t =>
      t.regs.filt.sd.toNat == 0x1145 && t.regs.filt.acc.toNat == 0 && t.regs.filt.k == 17) = true := by
  decide

/-- Section 1: `a1·(0 − y1) = −1366089`. -/
theorem test_procP1_y_term :
    let r := { worked 1 with filt := { (worked 1).filt with sd := 4421 } }
    check (exec .procP1 ⟨cfg, r⟩) (fun t =>
      t.regs.filt.acc.toInt == -1366089 && t.regs.filt.yo.toNat == 4421 &&
      t.regs.filt.sd.toNat == 321) = true := by decide

/-- Section 1: `b0·(off' − x0) = 4200592` is added. -/
theorem test_procP2_x0_term :
    let r := { worked 2 with filt := { (worked 2).filt with sd := 321, acc := BitVec.ofInt 48 (-1366089) } }
    check (exec .procP2 ⟨cfg, r⟩) (fun t =>
      t.regs.filt.acc.toInt == -1366089 + 4200592 && t.regs.filt.sd.toNat == 1859) = true := by decide

/-- Before phase 3 of the worked example. -/
def workedP3 : Regs cfg :=
  { worked 3 with filt := { (worked 3).filt with sd := 1859, yo := 4421, acc := BitVec.ofInt 48 2834503 } }

/-- Section 1: `y1`, the output buffer, `clip`. -/
theorem test_procP3_writes_back :
    check (exec .procP3 ⟨cfg, workedP3⟩) (fun t =>
      t.regs.filt.acc.toInt == 7602245 &&
      t.regs.sm.map (fun p => (p.1, p.2.toNat)) == [(43, 0xE80), (259, 321), (267, 1859)] &&
      t.regs.filt.ob.toList.map (fun o => (o.ftw0.toNat, o.ftw1.toNat, o.pow.toNat, o.asf.toNat)) ==
        [(0, 0, 0, 0), (0, 0, 0, 0), (0, 0, 0, 0), (0x1727, 0x1929, 0x1333, 3), (0, 0, 0, 0),
         (0, 0, 0, 0), (0, 0, 0, 0), (0, 0, 0, 0)] &&
      t.regs.outs.clip == some false && t.regs.filt.k == 20) = true := by decide

/-- Rows G-c and G-h: pass-through of the stored `y1`, the counter cleared. -/
theorem test_procP3_passes_through :
    let r := fun iir (yo : BitVec 25) => { workedP3 with filt := { workedP3.filt with
      lat := base.filt.lat.set 3 (ChanCtl.mk 5 false iir), yo := yo
      dly := base.filt.dly.set 3 5 } }
    check (exec .procP3 ⟨cfg, r true 4421⟩) (fun t =>
      t.regs.sm.map (fun p => (p.1, p.2.toNat)) == [(43, 4421), (259, 321), (267, 1859)] &&
      (t.regs.filt.ob.toList.map fun o => o.asf.toNat) == [0, 0, 0, 4, 0, 0, 0, 0] &&
      (t.regs.filt.dly.toList.map BitVec.toNat) == [0, 0, 0, 0, 0, 0, 0, 0]) = true ∧
    check (exec .procP3 ⟨cfg, r false 0x1FFFFFF⟩) (fun t =>
      (t.regs.filt.ob.toList.map fun o => o.asf.toNat) == [0, 0, 0, 0x3FFF, 0, 0, 0, 0]) = true := by
  decide

/-- Slot 3's phase 3 hands the fetched words over; `CQ[3]` is not used. -/
theorem test_procP3_hands_over :
    let r := { filtAt .process 15 with
      filt := { (worked 3).filt with k := 15, cq := #v[1, 2, 3, 9] }
      cm := [(2 * 0x197, 0x01727), (2 * 0x197 + 1, 0x00337)] }
    check (exec .procP3 ⟨cfg, r⟩) (fun t =>
      t.regs.filt.cx.toList.map BitVec.toNat == [1, 2, 3, 0x00CDC1727] &&
      t.regs.filt.cq.toList.map BitVec.toNat == [1, 2, 3, 9]) = true := by decide

/-- Program P5's fault: the first fetch reads an undefined word. -/
theorem test_fetch_of_undefined_word :
    let r := { baseU with now := 195, filt := { baseU.filt with state := .process, k := 0 } }
    check (exec .procP0 ⟨cfgU, r⟩) (fun t =>
      t.regs.faults == [⟨.uninitRead, 195, .mem .cm 0⟩] && t.regs.filt.k == 1) = true := by decide

/-- Row S1. -/
theorem test_shift_copies :
    let r := fun k : Nat => { filtAt .shift k with sm := [(259, 0x141)] }
    check (exec .shiftRd ⟨cfg, r 6⟩) (fun t => t.regs.filt.sd.toNat == 0x141 && t.regs.filt.k == 7) = true ∧
    check (exec .shiftWr ⟨cfg, { r 7 with filt := { (r 7).filt with sd := 0x141 } }⟩) (fun t =>
      t.regs.sm.map (fun p => (p.1, p.2.toNat)) == [(259, 0x141), (267, 0x141)] &&
      t.regs.filt.k == 8) = true ∧
    check (exec .shiftWr ⟨cfg, r 15⟩) (fun t => t.regs.filt.state == .idle && t.regs.filt.k == 0) = true := by
  decide

/-! ## OutputAssembler -/

/-- A start: shift entry with the token up. -/
def outStarted : Regs cfg := { filtAt .shift 0 with sched := { base.sched with token1 := true } }

/-- R262 and row O1: `o_cnt` loads `t_output − 2`. -/
theorem test_outStart_latches :
    let r := { outStarted with filt := { outStarted.filt with
      ob := outStarted.filt.ob.set 3 (OutWord.mk 0x1727 0x1929 0x1333 3) } }
    check (exec .outStart ⟨cfg, r⟩) (fun t =>
      t.regs.out.busy && t.regs.out.cnt == 144 &&
      (t.regs.out.fr.toList.map BitVec.toNat).getD 3 0 == 0xA50003133319291727) = true := by decide

theorem test_outBusy_counts :
    let r := fun n : Nat => { base with out := { base.out with busy := true, cnt := n } }
    check (exec .outBusy ⟨cfg, r 3⟩) (fun t => t.regs.out.busy && t.regs.out.cnt == 2) = true ∧
    check (exec .outBusy ⟨cfg, r 0⟩) (fun t => !t.regs.out.busy) = true := by decide

/-- Row O1 (`UPD_DELAY = 2`): the strobe two ticks after `o_done` rises, the frames in the tick it
rises; none after reset. -/
theorem test_strobe_and_delivery :
    let r := fun d : BitVec 3 => { base with out := { base.out with dl := d } }
    check (exec .outStart ⟨cfg, r 0b011⟩) (fun t =>
      t.regs.outs.ioUpdate && t.regs.outs.delivered == none) = true ∧
    check (exec .outStart ⟨cfg, r 0b000⟩) (fun t =>
      !t.regs.outs.ioUpdate && !(t.regs.outs.delivered == none)) = true ∧
    check (exec .outStart ⟨cfg, base⟩) (fun t =>
      !t.regs.outs.ioUpdate && t.regs.outs.delivered == none) = true := by decide

/-! ## CycleScheduler (R292, R295, R303) -/

/-- `cnt` after ticks 0 and 1 of the reference run; a set and a clear in one tick leave `token[0]`
set. -/
theorem test_schedule :
    (started base).schedule = ⟨145, true, false⟩ ∧
    ({ base with sched := ⟨145, true, false⟩ } : Regs cfg).schedule = ⟨144, false, true⟩ ∧
    ({ started base with sched := ⟨0, true, false⟩ } : Regs cfg).schedule = ⟨145, true, true⟩ ∧
    ({ filtAt .shift 0 with sched := ⟨61, false, true⟩ } : Regs cfg).schedule = ⟨60, false, false⟩ := by
  decide

/-! ## Host operations (sections 3 and 7) -/

/-- `CM[0x196] = {a1, offset}`: the other half stays; values are cut to 18 bits. -/
theorem test_setCoefficient :
    let r := { base with cm := [(2 * 0x196, 0x01531)] }
    let cm := fun v => check (exec (.setCoeffA1 3 5 v) ⟨cfg, r⟩) fun t =>
      t.regs.cm.map (fun p => (p.1, p.2.toNat)) == [(0x32C, 0x01531), (0x32D, 0x3FFFF)]
    cm (-1) = true ∧
    check (exec (.setCoeffA1 3 5 0x40001) ⟨cfg, r⟩) (fun t =>
      t.regs.cm.map (fun p => (p.1, p.2.toNat)) == [(0x32C, 0x01531), (0x32D, 1)]) = true := by decide

/-- Each field's cell of (3, 5), by R341's table. -/
theorem test_setCoefficient_cells :
    let cell := fun i n => check (exec i ⟨cfg, base⟩) fun t => t.regs.cm.map (fun p => p.1) == [n]
    cell (.setCoeffFtw1 3 5 1) 0x328 = true ∧ cell (.setCoeffB1 3 5 1) 0x329 = true ∧
    cell (.setCoeffPow 3 5 1) 0x32A = true ∧ cell (.setCoeffCfg 3 5 1) 0x32B = true ∧
    cell (.setCoeffOffset 3 5 1) 0x32C = true ∧ cell (.setCoeffFtw0 3 5 1) 0x32E = true ∧
    cell (.setCoeffB0 3 5 1) 0x32F = true := by decide

/-- Section 7, tick 200: the active pair is locked in PROCESS, another profile is not. -/
theorem test_setCoefficient_active :
    let r := { worked 0 with now := 200 }
    check (exec (.setCoeffA1 3 5 1) ⟨cfg, r⟩) (fun t =>
      t.regs.cm == [] && t.regs.faults == [⟨.coeffWriteActive, 200, .coeff 3 5 .a1⟩]) = true ∧
    check (exec (.setCoeffA1 3 4 1) ⟨cfg, r⟩) (fun t =>
      t.regs.cm.map (fun p => p.1) == [2 * 0x192 + 1] && t.regs.faults.isEmpty) = true := by decide

/-- The host read data of a tick as a number. -/
def hrdOf (t : State) : Option Nat :=
  t.regs.outs.hrd.map fun d => match d with | .coeff v => v.toNat | .state v => v.toNat

/-- The gets of (3, 5) after the eight §8 writes. -/
theorem test_getCoefficient :
    let r := { base with cm := [(0x328, 0x01929), (0x329, 0x00539), (0x32A, 0x01333), (0x32B, 0x00003),
      (0x32C, 0x01531), (0x32D, 0x00135), (0x32E, 0x01727), (0x32F, 0x00337)] }
    let get := fun i n => check (exec i ⟨cfg, r⟩) fun t => hrdOf t == some n
    get (.getCoeffFtw1 3 5) 0x1929 = true ∧ get (.getCoeffB1 3 5) 0x539 = true ∧
    get (.getCoeffPow 3 5) 0x1333 = true ∧ get (.getCoeffCfg 3 5) 3 = true ∧
    get (.getCoeffOffset 3 5) 0x1531 = true ∧ get (.getCoeffA1 3 5) 0x135 = true ∧
    get (.getCoeffFtw0 3 5) 0x1727 = true ∧ get (.getCoeffB0 3 5) 0x337 = true := by decide

/-- Row Z5: a half no write has defined. -/
theorem test_getCoefficient_undefined :
    check (exec (.getCoeffA1 0 0) ⟨cfgU, baseU⟩) (fun t =>
      t.regs.faults == [⟨.uninitRead, 0, .mem .cm 2⟩] && hrdOf t == none) = true := by decide

/-- R328's examples and section 3's truncations. -/
theorem test_setState :
    let sm := fun i => match exec i ⟨cfg, base⟩ with
      | .next t => t.regs.sm.map fun p => (p.1, p.2.toNat)
      | _ => []
    sm (.setStateY1 3 5 0x1145) = [(43, 0x1145)] ∧ sm (.setStateX1 3 0x743) = [(267, 0x743)] ∧
    sm (.setStateX0 3 (-1)) = [(259, 0x1FFFFFF)] ∧ sm (.setStateX1 3 0x2000000) = [] := by decide

/-- Section 7, ticks 180 and 179: refused in `LOAD_WR`, allowed in `LOAD_SX`. -/
theorem test_setState_conflict :
    let r := fun k : Nat => { filtAt .load k with now := 179 + k }
    check (exec (.setStateY1 3 5 1) ⟨cfg, r 1⟩) (fun t =>
      t.regs.sm == [] && t.regs.faults == [⟨.stateWriteConflict, 180, .state (.y1 3 5)⟩]) = true ∧
    check (exec (.setStateY1 3 5 1) ⟨cfg, r 0⟩) (fun t =>
      t.regs.sm.map (fun p => (p.1, p.2.toNat)) == [(43, 1)] && t.regs.faults.isEmpty) = true := by decide

/-- Section 7, tick 214 (the gate open): the read sees the old value, a write is refused. -/
theorem test_state_access_in_gated_tick :
    let r := { workedP3 with now := 214 }
    check (exec (.getStateY1 3 5) ⟨cfg, r⟩) (fun t => hrdOf t == some 0x1145) = true ∧
    check (exec (.setStateY1 0 0 7) ⟨cfg, r⟩) (fun t =>
      t.regs.faults == [⟨.stateWriteConflict, 214, .state (.y1 0 0)⟩]) = true := by decide

theorem test_getState :
    let r := { base with sm := [(43, 0xE80), (257, 5), (267, 0x141)] }
    let get := fun i n => check (exec i ⟨cfg, r⟩) fun t => hrdOf t == some n
    get (.getStateY1 3 5) 0xE80 = true ∧ get (.getStateX0 1) 5 = true ∧
    get (.getStateX1 3) 0x141 = true := by decide

/-- Section 7's priority: only `F_STATE_READ_BUSY`, even of a word never written. -/
theorem test_getState_busy :
    let r := { baseU with now := 180, filt := { baseU.filt with state := .load, k := 1 } }
    check (exec (.getStateX1 5) ⟨cfgU, r⟩) (fun t =>
      t.regs.faults == [⟨.stateReadBusy, 180, .state (.x1 5)⟩] && hrdOf t == none) = true := by decide

/-- R335's example, and tick 190 of section 7. -/
theorem test_setCtrl :
    check (exec (.setCtrl 3 5 true true) ⟨cfg, base⟩) (fun t =>
      t.regs.ctrl.toList.map (fun l => (l.profile.toNat, l.enOut, l.enIir)) ==
        [(0, false, false), (0, false, false), (0, false, false), (5, true, true), (0, false, false),
         (0, false, false), (0, false, false), (0, false, false)]) = true ∧
    check (exec (.setCtrl 3 5 true true) ⟨cfg, { filtAt .load 11 with now := 190 }⟩) (fun t =>
      t.regs.faults == [⟨.ctrlWriteBusy, 190, .chan 3⟩]) = true := by decide

/-- R376: a channel outside its range. -/
theorem test_host_bad_operand :
    check (exec (.getStateX0 8) ⟨cfg, base⟩) (fun t =>
      t.regs.faults == [⟨.hostBadOp, 0, .selector (3 * 2048 + 8 * 256 + 1)⟩] && hrdOf t == none) = true := by
  decide

/-! ## One step -/

/-- One tick with the environment's `enable` and a host operation. -/
def tick (r : Regs cfg) (enable : Bool) (op : Option (HostOp cfg)) : Host.Outcome State Fault Refusal :=
  step ⟨cfg, { r with script := .tick (inp enable op) :: r.script }⟩

/-- Tick 0 of the reference run. -/
theorem test_step_first_tick :
    check (tick base true none) (fun t =>
      t.regs.acq.state == .cnvh && t.regs.sched == ⟨145, true, false⟩ && t.regs.now == 1 &&
      t.regs.faults.isEmpty) = true := by decide

/-- Tick 85: shift entry, the output starts, `SHIFT_RD` runs, the token drains. -/
theorem test_step_shift_entry :
    let r := { filtAt .shift 0 with sched := ⟨61, false, true⟩ }
    check (tick r true none) (fun t =>
      t.regs.out.busy && t.regs.filt.k == 1 && t.regs.sched == ⟨60, false, false⟩) = true := by decide

/-- Section 7's last row: an illegal selector is recorded and does nothing else. -/
theorem test_step_illegal_selector :
    check (tick base false (some (.word 0x2800 5))) (fun t =>
      t.regs.faults == [⟨.hostBadOp, 0, .selector 0x2800⟩] && t.regs.cm == [] && t.regs.sm == [] &&
      t.regs.now == 1) = true := by decide

/-- R321's calls by name: the eight fields and the three kinds, `x0` and `x1` without a profile. -/
theorem test_named_calls :
    resolveCall (.setCoeff 3 5 ['o', 'f', 'f', 's', 'e', 't'] 7) = some (.setCoeff 3 5 .offset 7) ∧
    resolveCall (.getCoeff 3 5 ['f', 't', 'w', '0']) = some (.getCoeff 3 5 .ftw0) ∧
    resolveCall (.setState 3 none ['x', '0'] 7) = some (.setState (.x0 3) 7) ∧
    resolveCall (.getState 3 (some 5) ['y', '1']) = some (.getState (.y1 3 5)) ∧
    resolveCall (.getState 3 (some 5) ['x', '1']) = none ∧
    resolveCall (.setState 3 none ['y', '1'] 7) = none := by decide

/-- R376: an unknown field name and an unknown kind are recorded and do nothing else. -/
theorem test_step_unknown_name :
    check (tick base false (some (.named (.setCoeff 3 5 ['a', '2'] 1)))) (fun t =>
      t.regs.faults == [⟨.hostBadOp, 0, .call (.setCoeff 3 5 ['a', '2'] 1)⟩] && t.regs.cm == [] &&
      t.regs.now == 1) = true ∧
    check (tick base false (some (.named (.getState 3 none ['x', '2'])))) (fun t =>
      t.regs.faults == [⟨.hostBadOp, 0, .call (.getState 3 none ['x', '2'])⟩] && hrdOf t == none) =
      true := by decide

/-- The code column of R378, codes 1 to 10 in the table's order. -/
theorem test_fault_codes :
    [FaultCode.coeffWriteActive, .stateReadBusy, .stateWriteConflict, .ctrlWriteBusy, .startBusyAcq,
      .startBusyIir, .startBusyOut, .uninitRead, .hostBadOp, .adcDataInvalid].map FaultCode.number =
      [1, 2, 3, 4, 5, 6, 7, 8, 9, 10] := by decide

/-- Program P4: the fault of tick 200 is recorded, the rest of the tick commits; then the CORE is
halted and takes no operation. -/
theorem test_step_halts :
    let r := { worked 0 with now := 200 }
    check (tick r true (some (.word 0x032D 1))) (fun t =>
      t.regs.faults == [⟨.coeffWriteActive, 200, .coeff 3 5 .a1⟩] && t.regs.filt.k == 17) = true ∧
    check (tick { r with faults := [⟨.hostBadOp, 7, .none⟩] } true (some (.word 0x1B28 0))) (fun t =>
      t.regs.filt.k == 16 && t.regs.now == 200 && hrdOf t == none) = true := by decide

/-- Row Z4: reset keeps the memories and clears the rest. -/
theorem test_step_reset :
    check (step ⟨cfg, { workedP3 with script := [.reset], faults := [⟨.hostBadOp, 7, .none⟩] }⟩) (fun t =>
      t.regs.sm.map (fun p => p.1) == [43, 259, 267] && t.regs.filt.state == .idle &&
      t.regs.faults.isEmpty && t.regs.out.dl.toNat == 7) = true := by decide

theorem test_step_powerUp :
    check (step ⟨cfg, { workedP3 with script := [.powerUp] }⟩) (fun t =>
      t.regs.sm == [] && t.regs.filt.state == .idle) = true := by decide

/-- R361. -/
theorem test_step_refuses_configuration :
    (match step ⟨{ cfg with acq := { cfg.acq with tConv := 1 } }, Regs.atPowerUp _⟩ with
      | .fault (.configuration l) => l == [.cf7]
      | _ => false) = true := by decide

/-- An opcode-table word placed after reset is what the next step runs. -/
theorem test_withFetchWord :
    check (step (State.reset.withFetchWord 16 0x1328)) (fun t =>
      t.regs.sm.map (fun p => (p.1, p.2.toNat)) == [(43, 0)]) = true ∧
    check (step (State.reset.withFetchWord 8 0x5)) (fun t =>
      t.regs.sm.map (fun p => (p.1, p.2.toNat)) == [(256, 0)] && t.regs.filt.k == 2) = true ∧
    check (step (State.reset.withFetchWord 8 0x3)) (fun t => t.regs.acq.state == .rtt) = true ∧
    check (step (State.reset.withFetchWord 1 1)) (fun t => !t.regs.out.busy) = true := by decide

/-! ## Host scripts (R125) -/

/-- P3's `set_cfg` and R125's other expansions. -/
theorem test_script_expansions :
    Stmt.expand cfg (.setCfg 1 2 1 2) = [.host (.setCoeff 1 2 .cfg 0x201)] ∧
    Stmt.expand cfg (.setDds 0 0 0x19291727 7) = [.host (.setCoeff 0 0 .ftw0 0x1727),
      .host (.setCoeff 0 0 .ftw1 0x1929), .host (.setCoeff 0 0 .pow 7)] ∧
    Stmt.expand cfg .waitCycle = [.tick 146] := by decide

theorem test_script_lines :
    ScriptText.line "set_state 3, -, x1, 0x743 ; the previous sample".toList =
      some [.named (.setState 3 none ['x', '1'] 0x743)] ∧
    ScriptText.line "set_coeff 1, 2, a1, -2048".toList =
      some [.named (.setCoeff 1 2 ['a', '1'] (-2048))] ∧
    ScriptText.line "get_state 3, 5, y1".toList = some [.named (.getState 3 (some 5) ['y', '1'])] ∧
    ScriptText.line "tick 0".toList = none ∧ ScriptText.line "  ; nothing".toList = some [] := by decide

/-- A bit is a number, and 2 is no bit (log entry 27). -/
theorem test_script_bits :
    ScriptText.line "enable 0x1".toList = some [.enable true] ∧
    ScriptText.line "set_ctrl 3, 5, 01, 0x0".toList = some [.host (.setCtrl 3 5 true false)] ∧
    ScriptText.line "enable 2".toList = none := by decide

/-- The driven value is cut to 16 bits, and a channel that is none drives nothing (log entry 27). -/
theorem test_script_samples :
    (scriptSamples cfg [(7, -1), (8, 5), (0, 0x10141)]).toList.map (Option.map BitVec.toNat) =
      [some 0x141, none, none, none, none, none, none, some 0xFFFF] := by decide

/-- A host statement ends its tick. -/
theorem test_script_runs :
    (match (Driver.start ⟨cfg, base⟩).run [.host (.setState (.y1 3 5) 0x1145), .enable true] with
      | .next d => d.enable && d.state.regs.now == 1 && d.state.regs.sm.map (fun p => p.1) == [43]
      | _ => false) = true := by decide

/-! ## Witnesses: a state and operands that meet all hypotheses of a statement, and of each of its
clauses -/

/-- A step of the test configuration answers a next state. -/
theorem steps (r : Regs cfg) : ∃ t : Regs cfg, step ⟨cfg, r⟩ = .next ⟨cfg, t⟩ :=
  Laws.step_next (by decide) r

/-- Tick 32 of the reference run: the acquisition is done, its token up. -/
def sweepStart : Regs cfg := { base with sched := ⟨114, true, false⟩ }

/-- Tick 85 of the reference run: shift entry, the filter's token up. -/
def shiftEntry : Regs cfg := { filtAt .shift 0 with sched := ⟨61, false, true⟩ }

/-- A start pulse of each kind at a busy stage: no run reaches it, the statements are of every state. -/
def allStart : Regs cfg :=
  { started (filtAt .shift 0) with
    sched := ⟨0, true, true⟩, out := { base.out with busy := true, cnt := 3 } }

theorem witness_StepKeepsTheInvariant :
    Inv ⟨cfg, shiftEntry⟩ ∧ ∃ t : Regs cfg, step ⟨cfg, shiftEntry⟩ = .next ⟨cfg, t⟩ :=
  ⟨by decide, steps _⟩

/-- With a fault raised in the step: the host breaks the contract of R373. -/
theorem witness_CheckedConfigurationsNeverStartABusyStage :
    let r := { shiftEntry with script := [.tick (inp true (some (.word 0x2003 0)))] }
    Inv ⟨cfg, r⟩ ∧ check (step ⟨cfg, r⟩) (fun t => t.regs.faults.length == 1) = true := by
  decide

theorem witness_QuietZeroedMachineNeverFaults :
    Inv ⟨cfg, sweepStart⟩ ∧ cfg.memInit = .zero ∧ sweepStart.NoHostOps ∧ Safe ⟨cfg, sweepStart⟩ :=
  ⟨by decide, rfl, fun _ h => absurd h (List.not_mem_nil), rfl⟩

theorem witness_AcquisitionTakesTacqTicks :
    let r := { base with script := [.tick (inp true (some (.word 0x2003 0))), .tick (inp false none)] }
    Inv ⟨cfg, r⟩ ∧ Safe ⟨cfg, r⟩ ∧ r.OnlyTicks ∧
      (∃ i rest, r.nextEvent = (.tick i, rest) ∧ i.enable = true) ∧ r.sched.cnt = 0 ∧
      0 < 1 ∧ 1 < cfg.tAcq := by
  refine ⟨by decide, by decide, fun e he => ?_, ⟨_, _, rfl, rfl⟩, rfl, by decide⟩
  rcases List.mem_cons.1 he with rfl | he
  · exact ⟨_, rfl⟩
  · exact ⟨_, List.mem_singleton.1 he⟩

/-- At the last tick of each of R192's rows, and the first of the next. -/
theorem witness_SweepFollowsItsTimetable :
    Inv ⟨cfg, sweepStart⟩ ∧ Safe ⟨cfg, sweepStart⟩ ∧ sweepStart.OnlyTicks ∧
      sweepStart.filtStart = true ∧ 16 ≤ 2 * cfg.nCh ∧ 2 * cfg.nCh < 17 ∧ 52 ≤ 6 * cfg.nCh + 4 ∧
      6 * cfg.nCh + 4 < 53 ∧ 68 ≤ 8 * cfg.nCh + 4 ∧ 69 = 8 * cfg.nCh + 5 :=
  ⟨by decide, by decide, fun _ h => absurd h (List.not_mem_nil), by decide⟩

theorem witness_OutputTakesToutputTicks :
    Inv ⟨cfg, shiftEntry⟩ ∧ Safe ⟨cfg, shiftEntry⟩ ∧ shiftEntry.OnlyTicks ∧
      shiftEntry.outStart = true ∧ 0 < 145 ∧ 145 < cfg.tOutput ∧ 146 = cfg.tOutput :=
  ⟨by decide, by decide, fun _ h => absurd h (List.not_mem_nil), by decide⟩

/-- Without a host operation, with a selector, with a call, with a call by name. -/
theorem witness_StepRunsTheDecodedInstructions (op : Option (HostOp cfg))
    (h : op ∈ [none, some (.word 0x1B28 0), some (.call (.getState (.y1 3 5))),
      some (.named (.getState 3 (some 5) ['y', '1']))]) :
    let r := { worked 2 with script := [.tick (inp true op)] }
    ∃ i rest ia ie io h a e o, cfg.valid = true ∧ r.faults = [] ∧ r.nextEvent = (.tick i, rest) ∧
      decode cfg (r.present i rest).acqCode = .ok ia ∧ decode cfg (r.present i rest).engineCode = .ok ie ∧
      decode cfg (r.present i rest).outCode = .ok io ∧
      (i.op = none ∧ h = r.present i rest ∨
        (∃ sel v ih, i.op = some (.word sel v) ∧ decode cfg (.hostop sel v) = .ok ih ∧
          exec ih ⟨cfg, r.present i rest⟩ = .next ⟨cfg, h⟩) ∨
        ∃ call : HostCall, (i.op = some (.call call) ∨
            ∃ n, i.op = some (.named n) ∧ resolveCall n = some call) ∧
          exec call.instr ⟨cfg, r.present i rest⟩ = .next ⟨cfg, h⟩) ∧
      exec ia ⟨cfg, r.present i rest⟩ = .next ⟨cfg, a⟩ ∧
      exec ie ⟨cfg, r.present i rest⟩ = .next ⟨cfg, e⟩ ∧
      exec io ⟨cfg, r.present i rest⟩ = .next ⟨cfg, o⟩ := by
  intro r
  have hd : decode cfg (.hostop 0x1B28 0) = .ok (.getStateY1 3 5) := by decide
  simp only [List.mem_cons, List.not_mem_nil, or_false] at h
  rcases h with rfl | rfl | rfl | rfl
  · exact ⟨_, _, .acqIdle, .procP2, .outStart, _, _, _, _, by decide, rfl, rfl, by decide, by decide,
      by decide, .inl ⟨rfl, rfl⟩, Laws.exec_eq _ _, Laws.exec_eq _ _, Laws.exec_eq _ _⟩
  · exact ⟨_, _, .acqIdle, .procP2, .outStart, _, _, _, _, by decide, rfl, rfl, by decide, by decide,
      by decide, .inr (.inl ⟨_, _, _, rfl, hd, Laws.exec_eq _ _⟩), Laws.exec_eq _ _, Laws.exec_eq _ _,
      Laws.exec_eq _ _⟩
  · exact ⟨_, _, .acqIdle, .procP2, .outStart, _, _, _, _, by decide, rfl, rfl, by decide, by decide,
      by decide, .inr (.inr ⟨_, .inl rfl, Laws.exec_eq _ _⟩), Laws.exec_eq _ _, Laws.exec_eq _ _,
      Laws.exec_eq _ _⟩
  · exact ⟨_, _, .acqIdle, .procP2, .outStart, _, _, _, _, by decide, rfl, rfl, by decide, by decide,
      by decide, .inr (.inr ⟨.getState (.y1 3 5), .inr ⟨_, rfl, by decide⟩, Laws.exec_eq _ _⟩),
      Laws.exec_eq _ _, Laws.exec_eq _ _, Laws.exec_eq _ _⟩

theorem witness_StagesIgnoreTheHostOperationOfTheirTick :
    (∃ t : Regs cfg, step ⟨cfg, { worked 2 with
      script := [.tick { inp true none with op := some (.word 0x1328 7) }] }⟩ = .next ⟨cfg, t⟩) ∧
    (∃ t : Regs cfg, step ⟨cfg, { worked 2 with
      script := [.tick { inp true none with op := none }] }⟩ = .next ⟨cfg, t⟩) ∧
    (worked 2).faults = [] :=
  ⟨steps _, steps _, rfl⟩

theorem witness_HaltedCoreKeepsItsState :
    let r := { worked 2 with faults := [⟨.hostBadOp, 7, .none⟩] }
    cfg.valid = true ∧ r.faults ≠ [] ∧ ∃ i rest, r.nextEvent = (.tick i, rest) :=
  ⟨by decide, by decide, _, _, rfl⟩

theorem witness_RefusedConfigurationHasNoTick :
    ∃ k, { cfg with acq := { cfg.acq with tConv := 1 } }.holds k = false := ⟨.cf7, by decide⟩

theorem witness_ResetKeepsTheMemories :
    let r := { workedP3 with script := [.reset, .powerUp] }
    cfg.valid = true ∧ r.script = .reset :: [.powerUp] ∧ 2 ≤ cfg.updDelay := by
  exact ⟨by decide, rfl, by decide⟩

/-- One configuration for each value of `MEM_INIT`. -/
theorem witness_PowerUpMemoriesHoldMemInit :
    (cfg.valid = true ∧ { workedP3 with script := [Event.powerUp] }.script = .powerUp :: [] ∧
      cfg.memInit = .zero) ∧
    (cfgU.valid = true ∧ { baseU with script := [Event.powerUp] }.script = .powerUp :: [] ∧
      cfgU.memInit = .unspecified) :=
  ⟨⟨by decide, rfl, rfl⟩, by decide, rfl, rfl⟩

/-- A start of each stage in one tick, and none. -/
theorem witness_SchedulerCountsAndPassesTheToken :
    (∃ t : Regs cfg, step ⟨cfg, { allStart with script := [.tick (inp true none)] }⟩ = .next ⟨cfg, t⟩) ∧
    (∃ t : Regs cfg, step ⟨cfg, { base with sched := ⟨1, false, false⟩, script := [.tick (inp true none)] }⟩ =
      .next ⟨cfg, t⟩) ∧
    cfg.valid = true ∧ allStart.faults = [] ∧ base.faults = [] :=
  ⟨steps _, steps _, by decide⟩

theorem witness_AcqIdleAcceptsAStart :
    (started base).acq.state = .idle ∧ (started base).inp.enable = true ∧ (started base).sched.cnt = 0 ∧
    ¬ (base.inp.enable = true ∧ base.sched.cnt = 0) := by decide

theorem witness_AcqTimedStatesCountDown :
    (¬ ((acqAt .conv 0).inp.enable = true ∧ (acqAt .conv 0).sched.cnt = 0) ∧ (acqAt .conv 0).acq.cnt = 0) ∧
    ¬ ((acqAt .conv 1).inp.enable = true ∧ (acqAt .conv 1).sched.cnt = 0) ∧
    (acqAt .conv 1).acq.cnt ≠ 0 := by decide

/-- One sample driven, one left to the draw. -/
theorem witness_AcqRttDeliversTheSamples :
    let r := { acqAt .rtt 0 with
      inp := { inp false none with samples := (Vector.replicate 8 none).set 7 (some 0x8000) } }
    ¬ (r.inp.enable = true ∧ r.sched.cnt = 0) ∧ r.acq.cnt = 0 ∧
      r.inp.samples[(⟨7, by decide⟩ : Fin cfg.nCh)] = some 0x8000 ∧
      r.inp.samples[(⟨0, by decide⟩ : Fin cfg.nCh)] = none ∧ (acqAt .rtt 1).acq.cnt ≠ 0 := by decide

theorem witness_BusyStageRecordsAndIgnoresAStart :
    allStart.acqStart = true ∧ allStart.filtStart = true ∧ allStart.outStart = true := by decide

theorem witness_IdleWaitLatchesChannelControl :
    base.filtStart = false ∧ sweepStart.filtStart = true := by decide

/-- The first and the last channel. -/
theorem witness_LoadSxWidensTheSample :
    cfg.valid = true ∧ (filtAt .load 0).filtStart = false ∧ (filtAt .load 0).reading = false ∧
    (filtAt .load 0).filt.k = 2 * (⟨0, by decide⟩ : Fin cfg.nCh).val ∧
    (filtAt .load 14).filtStart = false ∧ (filtAt .load 14).reading = false ∧
    (filtAt .load 14).filt.k = 2 * (⟨7, by decide⟩ : Fin cfg.nCh).val := by decide

theorem witness_LoadSxRefusesInvalidSamples :
    let r := { filtAt .load 14 with acq := { base.acq with state := .read } }
    r.filtStart = false ∧ r.reading = true ∧ r.filt.k = 2 * (⟨7, by decide⟩ : Fin cfg.nCh).val := by
  decide

theorem witness_LoadWrStoresTheSample :
    (filtAt .load 1).filtStart = false ∧ (filtAt .load 1).filt.state = .load ∧
    (filtAt .load 1).filt.k = 2 * (⟨0, by decide⟩ : Fin cfg.nCh).val + 1 ∧
    (filtAt .load 15).filtStart = false ∧ (filtAt .load 15).filt.state = .load ∧
    (filtAt .load 15).filt.k = 2 * (⟨7, by decide⟩ : Fin cfg.nCh).val + 1 ∧
    (filtAt .load 1).sm.wf cfg.memInit = true := by decide

/-- The last channel's last phase of each clause. -/
theorem witness_FetchLoadsTheFourWords :
    let s : Fin cfg.nCh := ⟨7, by decide⟩
    let r := fun k => { worked 0 with filt := { (worked 0).filt with k := k } }
    ((r 30).filt.k = 4 * s.val + 2 ∧ (r 30).coefRead
      (s.val * 2 ^ (cfg.P + 2) + (r 30).filt.lat[s].profile.toNat * 4 + 2) = some 0) ∧
    ((r 31).filt.k = 4 * s.val + 3 ∧ (r 31).coefRead
      (s.val * 2 ^ (cfg.P + 2) + (r 31).filt.lat[s].profile.toNat * 4 + 3) = some 0) := by decide

theorem witness_ComputePhasesAccumulate :
    let ch : Fin cfg.nCh := ⟨3, by decide⟩
    ((worked 0).filt.k = 4 * (ch.val + 1) ∧ (worked 0).stRead
      ((worked 0).filt.lat[ch].profile.toNat * 2 ^ cfg.C + ch.val) = some 4421) ∧
    ((worked 1).filt.k = 4 * (ch.val + 1) + 1 ∧ (worked 1).stRead
      (2 ^ cfg.P * 2 ^ cfg.C + (cfgSel cfg ((worked 1).fld .cfg)).toNat) = some 321) ∧
    ((worked 2).filt.k = 4 * (ch.val + 1) + 2 ∧ (worked 2).stRead
      ((2 ^ cfg.P + 1) * 2 ^ cfg.C + (cfgSel cfg ((worked 2).fld .cfg)).toNat) = some 1859) := by decide

/-- The gate open at its threshold (`dly = delay = 0`), and closed by an enable. -/
theorem witness_ProcP3WritesBackThroughTheGate :
    let ch : Fin cfg.nCh := ⟨3, by decide⟩
    let open' := fun r : Regs cfg => r.filt.lat[ch].enIir = true ∧ r.filt.lat[ch].enOut = true ∧
      (cfgDelay cfg (r.fld .cfg)).toNat ≤ r.filt.dly[ch].toNat
    let closed := { workedP3 with filt := { workedP3.filt with lat := base.filt.lat } }
    (workedP3.filt.k = 4 * (ch.val + 1) + 3 ∧ workedP3.sm.wf cfg.memInit = true ∧ open' workedP3) ∧
    (closed.filt.k = 4 * (ch.val + 1) + 3 ∧ closed.sm.wf cfg.memInit = true ∧ ¬ open' closed) := by
  decide

theorem witness_ProcP3FillsTheOutputBuffer :
    workedP3.filt.k = 4 * ((⟨3, by decide⟩ : Fin cfg.nCh).val + 1) + 3 := by decide

/-- The counter below its threshold by one, at it, and cleared. -/
theorem witness_ProcP3UpdatesTheDelayCounter :
    let ch : Fin cfg.nCh := ⟨3, by decide⟩
    let r := fun d => { workedP3 with filt := { workedP3.filt with
      cx := workedP3.filt.cx.set 1 (0x203#18 ++ 0#18), dly := base.filt.dly.set 3 d } }
    (r 1).filt.k = 4 * (ch.val + 1) + 3 ∧ (r 1).filt.lat[ch].enOut = true ∧
    (r 1).filt.dly[ch].toNat + 1 = (cfgDelay cfg ((r 1).fld .cfg)).toNat ∧
    (r 2).filt.dly[ch].toNat = (cfgDelay cfg ((r 2).fld .cfg)).toNat ∧
    base.filt.lat[ch].enOut = false := by decide

theorem witness_ClipSaturatesAndNeverWraps : 1 ≤ cfg.S := by decide

theorem witness_AccumulatorNeverWraps : cfg.valid = true := by decide

theorem witness_FrameHoldsItsFiveFields : cfg.valid = true := by decide

theorem witness_ChannelSlotComputesTheFilter :
    let ch : Fin cfg.nCh := ⟨3, by decide⟩
    let r := worked 0
    cfg.valid = true ∧ r.filt.k = 4 * (ch.val + 1) ∧ r.sm.wf cfg.memInit = true ∧
    r.stRead (r.filt.lat[ch].profile.toNat * 2 ^ cfg.C + ch.val) = some 4421 ∧
    r.stRead (2 ^ cfg.P * 2 ^ cfg.C + (cfgSel cfg (r.fld .cfg)).toNat) = some 321 ∧
    r.stRead ((2 ^ cfg.P + 1) * 2 ^ cfg.C + (cfgSel cfg (r.fld .cfg)).toNat) = some 1859 := by decide

theorem witness_ShiftCopiesOneSample :
    let i : Fin cfg.nCh := ⟨7, by decide⟩
    (filtAt .shift 14).filtStart = false ∧ (filtAt .shift 14).filt.state = .shift ∧
    (filtAt .shift 14).filt.k = 2 * i.val ∧
    (filtAt .shift 14).stRead (2 ^ cfg.P * 2 ^ cfg.C + i.val) = some 0 ∧
    (filtAt .shift 15).filtStart = false ∧ (filtAt .shift 15).filt.state = .shift ∧
    (filtAt .shift 15).filt.k = 2 * i.val + 1 ∧ (filtAt .shift 15).sm.wf cfg.memInit = true := by decide

theorem witness_ShiftAgesASampleInTwoTicks :
    let r := { filtAt .shift 6 with sm := [(259, 0x141)], sched := ⟨55, false, false⟩ }
    let i : Fin cfg.nCh := ⟨3, by decide⟩
    r.filt.state = .shift ∧ r.filt.k = 2 * i.val ∧ r.faults = [] ∧ r.script = [] ∧
    r.sm.wf cfg.memInit = true ∧ r.stRead (2 ^ cfg.P * 2 ^ cfg.C + i.val) = some 0x141 ∧
    check (Sys2Proof.core.run 2 ⟨cfg, r⟩) (fun t => t.regs.faults == []) = true := by decide

/-- Each read with nothing defined: the state reads of channel 7 (its `cfg` selects channel 0), SHIFT's
last read, the fetches of channel 7's words 0, 2 and 3. -/
theorem witness_EngineReadOfUndefinedWordIsRecorded :
    let r := fun k : Nat => { baseU with filt := { baseU.filt with state := .process, k := k } }
    let ch : Fin cfgU.nCh := ⟨7, by decide⟩
    ((r 32).filt.k = 4 * (ch.val + 1) ∧
      (r 32).stRead ((r 32).filt.lat[ch].profile.toNat * 2 ^ cfgU.C + ch.val) = none) ∧
    ((r 33).filt.k = 4 * (ch.val + 1) + 1 ∧
      (r 33).stRead (2 ^ cfgU.P * 2 ^ cfgU.C + (cfgSel cfgU ((r 33).fld .cfg)).toNat) = none) ∧
    ((r 34).filt.k = 4 * (ch.val + 1) + 2 ∧
      (r 34).stRead ((2 ^ cfgU.P + 1) * 2 ^ cfgU.C + (cfgSel cfgU ((r 34).fld .cfg)).toNat) = none) ∧
    ((r 14).filt.k = 2 * ch.val ∧ (r 14).stRead (2 ^ cfgU.P * 2 ^ cfgU.C + ch.val) = none) ∧
    (∀ p ∈ [0, 2, 3], (r (28 + p)).filt.k = 4 * ch.val + p ∧
      (r (28 + p)).coefRead
        (ch.val * 2 ^ (cfgU.P + 2) + (r (28 + p)).filt.lat[ch].profile.toNat * 4 + p) = none) := by
  decide

/-- Besides the gated tick of channel 3: the gate closed, slot 0's and slot `N_ch`'s last ticks. -/
theorem witness_EngineFrame (i : Instr) :
    (∃ t : Regs cfg, exec i ⟨cfg, workedP3⟩ = .next ⟨cfg, t⟩) ∧ workedP3.sm.wf cfg.memInit = true ∧
    workedP3.calculates = true ∧ workedP3.gate = true ∧
    { workedP3 with filt := { workedP3.filt with lat := base.filt.lat } }.gate = false ∧
    { workedP3 with filt := { workedP3.filt with k := 3 } }.calculates = false ∧
    4 * cfg.nCh ≤ { workedP3 with filt := { workedP3.filt with k := 35 } }.filt.k :=
  ⟨⟨_, Laws.exec_eq _ _⟩, by decide⟩

theorem witness_SetCoefficientWritesOneHalf :
    31 < 2 ^ cfg.P ∧ ¬ ((worked 0).filt.state = .process ∧
      31 = (worked 0).filt.lat[(⟨3, by decide⟩ : Fin cfg.nCh)].profile.toNat) ∧
    (worked 0).cm.wf cfg.memInit = true := by decide

theorem witness_SetCoefficientOfAnActivePairIsRecorded :
    (worked 0).filt.state = .process ∧
    5 = (worked 0).filt.lat[(⟨3, by decide⟩ : Fin cfg.nCh)].profile.toNat := by decide

theorem witness_GetCoefficientReturnsTheHalf :
    31 < 2 ^ cfg.P ∧ base.cmHalf ((⟨7, by decide⟩ : Fin cfg.nCh).val * 2 ^ (cfg.P + 2) + 31 * 4 +
      (cfg.idx .b0).toNat / 2) (decide ((cfg.idx .b0).toNat % 2 = 1)) = some 0 := by decide

theorem witness_CoefficientRoundTrip :
    let i1 := inp false (some (.call (.setCoeff 3 5 .a1 (-1))))
    let i2 := inp false (some (.call (.getCoeff 3 5 .a1)))
    let r := { base with script := [.tick i1, .tick i2] }
    cfg.valid = true ∧ r.faults = [] ∧ r.cm.wf cfg.memInit = true ∧
    r.script = .tick i1 :: .tick i2 :: [] ∧ i1.op = some (.call (.setCoeff 3 5 .a1 (-1))) ∧
    i2.op = some (.call (.getCoeff 3 5 .a1)) ∧
    check (step ⟨cfg, r⟩) (fun t => t.regs.faults == []) = true := by
  refine ⟨by decide, rfl, rfl, rfl, rfl, rfl, by decide⟩

theorem witness_SetStateWritesOneWord :
    31 < 2 ^ cfg.P ∧ (worked 0).engineWritesSm = false ∧ (worked 0).sm.wf cfg.memInit = true := by decide

/-- Each of the three kinds of an engine write. -/
theorem witness_SetStateConflictIsRecorded :
    refOk cfg (.y1 7 31) = true ∧
    ((filtAt .load 15).filt.state = .load ∧ (filtAt .load 15).filt.k % 2 = 1) ∧
    ((filtAt .shift 1).filt.state = .shift ∧ (filtAt .shift 1).filt.k % 2 = 1) ∧
    workedP3.filt.state = .process ∧ ∃ ch : Fin cfg.nCh, workedP3.filt.k = 4 * (ch.val + 1) + 3 ∧
      workedP3.filt.lat[ch].enIir = true ∧ workedP3.filt.lat[ch].enOut = true ∧
      (cfgDelay cfg (workedP3.fld .cfg)).toNat ≤ workedP3.filt.dly[ch].toNat :=
  ⟨by decide, by decide, by decide, rfl, ⟨3, by decide⟩, by decide⟩

theorem witness_GetStateReturnsTheWord :
    let r := worked 3
    31 < 2 ^ cfg.P ∧ r.filt.state ≠ .load ∧ r.filt.state ≠ .shift ∧
    r.stRead (31 * 2 ^ cfg.C + 7) = some 0 ∧ r.stRead (2 ^ cfg.P * 2 ^ cfg.C + 7) = some 0 ∧
    r.stRead ((2 ^ cfg.P + 1) * 2 ^ cfg.C + 7) = some 0 := by decide

theorem witness_GetStateWhileBusyIsRecorded :
    refOk cfg (.x1 7) = true ∧ (filtAt .load 0).filt.state = .load ∧
    (filtAt .shift 15).filt.state = .shift := by decide

theorem witness_StateRoundTrip :
    let i1 := inp false (some (.call (.setState (.x1 3) 0x743)))
    let i2 := inp false (some (.call (.getState (.x1 3))))
    let r := { base with script := [.tick i1, .tick i2] }
    cfg.valid = true ∧ r.faults = [] ∧ r.sm.wf cfg.memInit = true ∧
    r.script = .tick i1 :: .tick i2 :: [] ∧ i1.op = some (.call (.setState (.x1 3) 0x743)) ∧
    i2.op = some (.call (.getState (.x1 3))) ∧
    check (step ⟨cfg, r⟩) (fun t =>
      t.regs.faults == [] && !(t.regs.filt.state == .load) && !(t.regs.filt.state == .shift)) = true := by
  refine ⟨by decide, rfl, rfl, rfl, rfl, rfl, by decide⟩

theorem witness_SetCtrlWritesOnlyBetweenSweeps :
    base.filt.state = .idle ∧ (filtAt .load 0).filt.state ≠ .idle := by decide

theorem witness_HostGetOfUndefinedMemoryIsRecorded :
    31 < 2 ^ cfgU.P ∧ baseU.cmHalf (cmAddr cfgU 7 31 (wordOf (cfgU.idx .b0))) (isHigh (cfgU.idx .b0)) = none ∧
    refOk cfgU (.x1 7) = true ∧ baseU.filt.state ≠ .load ∧ baseU.filt.state ≠ .shift ∧
    baseU.stRead (smAddr cfgU (.x1 7)) = none := by decide

/-- A profile and a channel one past the last; an unknown field name, and `x0` with a profile. -/
theorem witness_OperandOutOfRangeIsRecorded :
    (cfg.valid = true ∧ base.faults = [] ∧ (∀ f, ['a', '2'] ≠ fieldName f) ∧
      ¬ ((['x', '0'] = ['y', '1'] ∧ some 5 ≠ none) ∨
        (['x', '0'] = ['x', '0'] ∨ ['x', '0'] = ['x', '1']) ∧ some 5 = none)) ∧
    (HostCall.setCoeff 0 32 .a1 0).instr.wellFormed cfg = false ∧
    (HostCall.getState (.x0 8)).instr.wellFormed cfg = false :=
  ⟨⟨by decide, rfl, fun f => by cases f <;> decide, by decide⟩, by decide⟩

theorem witness_IllegalSelectorHasNoOtherEffect :
    cfg.valid = true ∧ (worked 2).faults = [] ∧ decode cfg (.hostop 0x2800 5) = .error .illegalOp := by
  decide

theorem witness_StateAddressesPartitionTheSpace :
    refOk cfg (.y1 7 31) = true ∧ refOk cfg (.x0 0) = true ∧ refOk cfg (.x1 7) = true ∧
    smAddr cfg (.x1 7) + 1 = smWords cfg := by decide

theorem witness_DecodeOfEncodeIsTheInstruction :
    cfg.holds .cf9 = true ∧ (Instr.setCoeffB0 7 31 (-1)).wellFormed cfg = true := by decide

theorem witness_DecodedSelectorIsTheEncodedOne :
    decode cfg (.hostop 0x07FF 3) = .ok (.setCoeffB0 7 31 3) := by decide

end Sys2Proof.Tests
end

section
/-! PROOFS. The machine's state (10_state.md): the reset state's invariant, the acquisition's status
outputs, and its timed states. -/

namespace Sys2Proof.Machine

variable {c : Config}

/-! ## The reset state -/

/-- Right after reset every stage is idle and the cycle counter is 0 (R54). -/
theorem reset_countersOk : State.reset.regs.CountersOk := by decide

/-- Right after reset no stage is at work and no token is up (R54). -/
theorem reset_stagesOk : State.reset.regs.StagesOk := by decide

namespace Regs

variable (r : Regs c)

/-! ## The acquisition's status outputs (R36) -/

@[simp] theorem acqDone_iff : r.acqDone = true ↔ r.acq.state = .idle := beq_iff_eq

@[simp] theorem cnv_iff : r.cnv = true ↔ r.acq.state = .cnvh := beq_iff_eq

@[simp] theorem sckEn_iff : r.sckEn = true ↔ r.acq.state = .read := beq_iff_eq

@[simp] theorem reading_iff : r.reading = true ↔ r.acq.state = .read ∨ r.acq.state = .rtt := by
  simp only [reading, Bool.or_eq_true, beq_iff_eq]

/-! ## The acquisition's start and its countdown -/

/-- The start pulse comes on an enabled tick that finds the cycle counter at 0 (R291). -/
theorem acqStart_iff : r.acqStart = true ↔ r.inp.enable = true ∧ r.sched.cnt = 0 := by
  simp only [acqStart, Bool.and_eq_true, beq_iff_eq]

variable {r}

/-- Without a start, a timed state whose countdown has run out goes on to the next state (R151). -/
theorem acqCount_of_zero (hs : r.acqStart = false) (hc : r.acq.cnt = 0) (load : Nat) (next : AcqState) :
    r.acqCount load next = { r with acq := { r.acq with state := next, cnt := load } } := by
  rw [acqCount, acqBusyStart_of_not _ hs, if_pos hc]

/-- Without a start, a timed state whose countdown runs counts down, wherever it would go (R151). -/
theorem acqCount_of_ne_zero (hs : r.acqStart = false) (hc : r.acq.cnt ≠ 0) (load : Nat)
    (next : AcqState) :
    r.acqCount load next = { r with acq := { r.acq with cnt := r.acq.cnt - 1 } } := by
  rw [acqCount, acqBusyStart_of_not _ hs, if_neg hc]

end Regs
end Sys2Proof.Machine

namespace Sys2Proof.Proofs

open Sys2Proof.Machine Sys2Proof.Laws

/-- Settles O17: the outputs by what each says of `acq_state`; `CNVH`, `CONV` and `READ` are one
countdown with three loads. -/
theorem acqTimedStatesCountDown : Obligations.AcqTimedStatesCountDown := by
  intro c r
  refine ⟨⟨r.acqDone_iff, r.cnv_iff, r.sckEn_iff, r.reading_iff⟩, fun hns => ?_⟩
  have hs : r.acqStart = false := Bool.eq_false_iff.2 (mt r.acqStart_iff.1 hns)
  refine ⟨fun hc => ?_, fun hc i hi => ?_⟩
  · simp only [exec_eq, act, Regs.acqCount_of_zero hs hc, and_self]
  · have hi : i = .acqCnvh ∨ i = .acqConv ∨ i = .acqRead := by simpa using hi
    rcases hi with rfl | rfl | rfl <;> simp only [exec_eq, act, Regs.acqCount_of_ne_zero hs hc]

/-- Settles O1, conjunct by conjunct: the checks of R362 are those of the reference configuration. -/
theorem resetMeetsTheInvariant : Obligations.ResetMeetsTheInvariant :=
  ⟨by decide, reset_memOk, reset_countersOk, reset_stagesOk⟩

end Sys2Proof.Proofs
end

section
/-! PROOFS. The two memories' addresses (20_memory.md rules R82, R85): an address is a number whose
digits are the channel, the profile and the word, and it determines them. -/

namespace Sys2Proof.Machine

variable {c : Config}

/-- A number determines its digit below `n` and what stands above it. -/
theorem mul_add_digit_inj {n a b x y : Nat} (hx : x < n) (hy : y < n) (h : a * n + x = b * n + y) :
    a = b ∧ x = y := by
  have hxy : x = y := by
    simpa [Nat.mul_add_mod', Nat.mod_eq_of_lt hx, Nat.mod_eq_of_lt hy] using congrArg (· % n) h
  subst hxy
  exact ⟨Nat.eq_of_mul_eq_mul_right (by omega) (Nat.add_right_cancel h), rfl⟩

/-- A number whose digit is below `n` and whose upper part is below `m` is below `m * n`. -/
theorem mul_add_digit_lt {n m a x : Nat} (hx : x < n) (ha : a < m) : a * n + x < m * n :=
  calc a * n + x < (a + 1) * n := by rw [Nat.add_mul]; omega
    _ ≤ m * n := Nat.mul_le_mul_right n ha

/-- A coefficient address with its channel and its profile as the digits above the word. -/
theorem cmAddr_digits {ch prof word : Nat} (hp : prof < 2 ^ c.P) (hw : word < 4) :
    cmAddr c ch prof word = (ch * 2 ^ c.P + prof) * 4 + word := by
  rw [cmAddr_eq hp hw, pow_add]
  ring

theorem cmAddr_lt {ch prof word : Nat} (hc : ch < c.nCh) (hp : prof < 2 ^ c.P) (hw : word < 4) :
    cmAddr c ch prof word < cmWords c := by
  rw [cmAddr_digits hp hw, cmWords, pow_add, pow_add]
  exact mul_add_digit_lt hw (mul_add_digit_lt hp hc)

theorem cmAddr_inj {ch ch' prof prof' word word' : Nat} (hp : prof < 2 ^ c.P) (hp' : prof' < 2 ^ c.P)
    (hw : word < 4) (hw' : word' < 4) (h : cmAddr c ch prof word = cmAddr c ch' prof' word') :
    ch = ch' ∧ prof = prof' ∧ word = word' := by
  rw [cmAddr_digits hp hw, cmAddr_digits hp' hw'] at h
  obtain ⟨hpair, hword⟩ := mul_add_digit_inj hw hw' h
  obtain ⟨hch, hprof⟩ := mul_add_digit_inj hp hp' hpair
  exact ⟨hch, hprof, hword⟩

/-- The channel of a state word. -/
def refChan : StateRef → Nat
  | .y1 ch _ => ch
  | .x0 ch => ch
  | .x1 ch => ch

/-- The row of `SM` a state word stands in: a row per profile, then one each for `x0` and `x1`
(R85). -/
def refRow (c : Config) : StateRef → Nat
  | .y1 _ prof => prof
  | .x0 _ => 2 ^ c.P
  | .x1 _ => 2 ^ c.P + 1

theorem refChan_lt {w : StateRef} (h : refOk c w = true) : refChan w < c.nCh := by
  cases w with
  | y1 ch prof => simp only [refOk, Bool.and_eq_true, decide_eq_true_eq] at h; exact h.1
  | x0 ch => exact of_decide_eq_true h
  | x1 ch => exact of_decide_eq_true h

/-- The address of a state word has its channel as digit and its row above it. -/
theorem smAddr_digits {w : StateRef} (h : refChan w < c.nCh) :
    smAddr c w = refRow c w * 2 ^ c.C + refChan w := by
  cases w with
  | y1 ch prof => exact smY1_eq h
  | x0 ch => exact smX0_eq h
  | x1 ch => exact smX1_eq h

/-- The state word at a row and a channel. -/
def refAt (c : Config) (row ch : Nat) : StateRef :=
  if row < 2 ^ c.P then .y1 ch row else if row = 2 ^ c.P then .x0 ch else .x1 ch

/-- Row and channel name one state word. -/
theorem refAt_refRow_refChan {w : StateRef} (h : refOk c w = true) :
    refAt c (refRow c w) (refChan w) = w := by
  cases w with
  | y1 ch prof =>
    simp only [refOk, Bool.and_eq_true, decide_eq_true_eq] at h
    exact if_pos h.2
  | x0 ch => simp [refAt, refRow, refChan]
  | x1 ch => simp [refAt, refRow, refChan]

/-- Every row below `2^P + 2` and every channel have their state word. -/
theorem refAt_spec {row ch : Nat} (hr : row < 2 ^ c.P + 2) (hc : ch < c.nCh) :
    refOk c (refAt c row ch) = true ∧ refRow c (refAt c row ch) = row ∧
      refChan (refAt c row ch) = ch := by
  unfold refAt
  split
  · next h => exact ⟨by simp [refOk, h, hc], rfl, rfl⟩
  · split
    · next h => exact ⟨by simp [refOk, hc], h.symm, rfl⟩
    · exact ⟨by simp [refOk, hc], by simp only [refRow]; omega, rfl⟩

theorem smWords_eq : smWords c = (2 ^ c.P + 2) * 2 ^ c.C := by
  rw [smWords, pow_add, pow_succ]
  ring

theorem smAddr_inj {w w' : StateRef} (h : refOk c w = true) (h' : refOk c w' = true)
    (e : smAddr c w = smAddr c w') : w = w' := by
  have hc := refChan_lt h
  have hc' := refChan_lt h'
  rw [smAddr_digits hc, smAddr_digits hc'] at e
  obtain ⟨hrow, hchan⟩ := mul_add_digit_inj hc hc' e
  rw [← refAt_refRow_refChan h, ← refAt_refRow_refChan h', hrow, hchan]

theorem exists_smAddr {a : Nat} (ha : a < smWords c) : ∃ w, refOk c w = true ∧ smAddr c w = a := by
  rw [smWords_eq] at ha
  obtain ⟨hok, hrow, hchan⟩ := refAt_spec
    (Nat.div_lt_of_lt_mul (by rwa [Nat.mul_comm] at ha)) (Nat.mod_lt a (Nat.two_pow_pos c.C))
  refine ⟨_, hok, ?_⟩
  rw [smAddr_digits (refChan_lt hok), hrow, hchan]
  exact Nat.div_add_mod' a _

end Sys2Proof.Machine

namespace Sys2Proof.Proofs

open Sys2Proof.Machine Sys2Proof.Laws

/-- Settles O54: channel, profile and word are the digits of the address. -/
theorem coefficientAddressesAreDistinct : Obligations.CoefficientAddressesAreDistinct := by
  intro c ch ch' p p' w w'
  refine ⟨cmAddr_eq p.isLt w.isLt, cmAddr_lt ch.isLt p.isLt w.isLt, fun h => ?_⟩
  obtain ⟨hch, hp, hw⟩ := cmAddr_inj p.isLt p'.isLt w.isLt w'.isLt h
  exact ⟨Fin.ext hch, Fin.ext hp, Fin.ext hw⟩

/-- Settles O55: row and channel are the digits of the address, and each pair of them is that of one
state word. -/
theorem stateAddressesPartitionTheSpace : Obligations.StateAddressesPartitionTheSpace := by
  intro c
  exact ⟨fun ch prof h => ⟨smY1_eq h, smX0_eq h, smX1_eq h⟩, fun w h => smAddr_lt h,
    fun w w' h h' e => smAddr_inj h h' e, fun a ha => exists_smAddr ha⟩

end Sys2Proof.Proofs
end

section
/-! PROOFS. What a step can do, by the event it takes (10_state.md rule R31, 60_exceptions.md rules R361,
R367): the inversion of `step`, and a tick as one function of the registers. -/

namespace Sys2Proof.Laws

open Sys2Proof.Machine

variable {c : Config}

/-- The registers after a tick that began in `r`, its inputs presented: `runTick` without the outcome
and the configuration (`runTick_eq`). -/
def tickAct (r : Regs c) : Regs c :=
  commit r (hostAct r) (act r.acqOp r) (act r.engineOp r) (act r.outOp r)

section
variable (r : Regs c)

@[simp] theorem tickAct_ctrl : (tickAct r).ctrl = (hostAct r).ctrl := rfl
@[simp] theorem tickAct_cm : (tickAct r).cm = (hostAct r).cm := rfl
@[simp] theorem tickAct_sm :
    (tickAct r).sm = if r.engineWritesSm then (act r.engineOp r).sm else (hostAct r).sm := rfl
@[simp] theorem tickAct_acq : (tickAct r).acq = (act r.acqOp r).acq := rfl
@[simp] theorem tickAct_filt : (tickAct r).filt = (act r.engineOp r).filt := rfl
@[simp] theorem tickAct_out : (tickAct r).out = (act r.outOp r).out := rfl
@[simp] theorem tickAct_sched : (tickAct r).sched = r.schedule := rfl
@[simp] theorem tickAct_faults : (tickAct r).faults = addFaults r.faults ((hostAct r).faults ++
    (act r.acqOp r).faults ++ (act r.engineOp r).faults ++ (act r.outOp r).faults) := rfl
@[simp] theorem tickAct_now : (tickAct r).now = r.now + 1 := rfl
@[simp] theorem tickAct_inp : (tickAct r).inp = r.inp := rfl
@[simp] theorem tickAct_script : (tickAct r).script = r.script := rfl
@[simp] theorem tickAct_draws : (tickAct r).draws = (act r.acqOp r).draws := rfl
@[simp] theorem tickAct_outs : (tickAct r).outs = TickOut.mk (hostAct r).outs.hrd
    (act r.outOp r).outs.ioUpdate (act r.outOp r).outs.delivered (act r.engineOp r).outs.clip := rfl

end

variable {r : Regs c}

theorem halted_eq_false : r.halted = false ↔ r.faults = [] := by
  simp [Regs.halted]

/-- A scripted event is the next one. -/
theorem nextEvent_of_cons {e : Event c} {rest : List (Event c)} (h : r.script = e :: rest) :
    r.nextEvent = (e, rest) := by
  simp [Regs.nextEvent, h]

/-- Where nothing is scripted the next event is a tick that holds `enable` and does nothing else. -/
theorem nextEvent_of_nil (h : r.script = []) :
    r.nextEvent = (.tick (TickInput.quiet c r.inp.enable), []) := by
  simp [Regs.nextEvent, h]

/-- A checked CORE that is not halted takes the tick its environment gives. -/
theorem step_tick {inp : TickInput c} {rest : List (Event c)} (hv : c.valid = true)
    (hf : r.faults = []) (he : r.nextEvent = (.tick inp, rest)) :
    step ⟨c, r⟩ = .next ⟨c, tickAct (r.present inp rest)⟩ := by
  rw [step_eq, if_pos hv, he]
  simp only [halted_eq_false.2 hf, Bool.false_eq_true, if_false]
  rfl

/-- A halted CORE only has the inputs presented to it. -/
theorem step_halted {inp : TickInput c} {rest : List (Event c)} (hv : c.valid = true)
    (hf : r.faults ≠ []) (he : r.nextEvent = (.tick inp, rest)) :
    step ⟨c, r⟩ = .next ⟨c, r.present inp rest⟩ := by
  rw [step_eq, if_pos hv, he]
  simp only [Bool.eq_true_of_not_eq_false (mt halted_eq_false.1 hf), if_true]

theorem step_reset {rest : List (Event c)} (hv : c.valid = true) (he : r.nextEvent = (.reset, rest)) :
    step ⟨c, r⟩ = .next ⟨c, ({ r with script := rest } : Regs c).applyReset⟩ := by
  rw [step_eq, if_pos hv, he]

theorem step_powerUp {rest : List (Event c)} (hv : c.valid = true)
    (he : r.nextEvent = (.powerUp, rest)) :
    step ⟨c, r⟩ = .next ⟨c, ({ r with script := rest } : Regs c).applyPowerUp⟩ := by
  rw [step_eq, if_pos hv, he]

theorem valid_of_step {t : State} (h : step ⟨c, r⟩ = .next t) : c.valid = true := by
  by_contra hv
  rw [step_eq, if_neg hv] at h
  cases h

/-- Everything a step that answers a next state can do. -/
theorem step_cases {t : State} (h : step ⟨c, r⟩ = .next t) :
    (∃ inp rest, r.nextEvent = (.tick inp, rest) ∧ r.faults ≠ [] ∧ t = ⟨c, r.present inp rest⟩) ∨
    (∃ inp rest, r.nextEvent = (.tick inp, rest) ∧ r.faults = [] ∧
      t = ⟨c, tickAct (r.present inp rest)⟩) ∨
    (∃ rest, r.nextEvent = (.reset, rest) ∧
      t = ⟨c, ({ r with script := rest } : Regs c).applyReset⟩) ∨
    (∃ rest, r.nextEvent = (.powerUp, rest) ∧
      t = ⟨c, ({ r with script := rest } : Regs c).applyPowerUp⟩) := by
  have hv := valid_of_step h
  rcases he : r.nextEvent with ⟨_ | _ | _, rest⟩
  · by_cases hf : r.faults = []
    · rw [step_tick hv hf he] at h; cases h
      exact .inr (.inl ⟨_, _, rfl, hf, rfl⟩)
    · rw [step_halted hv hf he] at h; cases h
      exact .inl ⟨_, _, rfl, hf, rfl⟩
  · rw [step_reset hv he] at h; cases h
    exact .inr (.inr (.inl ⟨_, rfl, rfl⟩))
  · rw [step_powerUp hv he] at h; cases h
    exact .inr (.inr (.inr ⟨_, rfl, rfl⟩))

end Sys2Proof.Laws
end

section
/-! PROOFS. Every operation keeps the memories canonical and inside their spaces (20_memory.md rules
R81, R85, R92). -/

namespace Sys2Proof.Machine.Regs

variable {c : Config} {r n : Regs c}

/-! ## Host operations -/

theorem memOk_setCoeff (h : r.MemOk) (f : CoeffField) (ch prof : Nat) (v : Int) :
    (r.setCoeff f ch prof v).MemOk := by
  rcases r.setCoeff_cases f ch prof v with ⟨-, e⟩ | ⟨-, -, -, e⟩ | ⟨hc, hp, -, e⟩ <;> rw [e]
  · exact h
  · exact h
  · exact memOk_cmWriteHalf r _ _ h (cmAddr_lt hc hp (wordOf_lt _))

theorem memOk_getCoeff (h : r.MemOk) (f : CoeffField) (ch prof : Nat) :
    (r.getCoeff f ch prof).MemOk := by
  unfold getCoeff
  split
  · split <;> exact h
  · exact h

theorem memOk_badRef (h : r.MemOk) (op : Nat) (w : StateRef) : (r.badRef op w).MemOk := by
  cases w <;> exact h

theorem memOk_setState (h : r.MemOk) (w : StateRef) (v : Int) : (r.setState w v).MemOk := by
  rcases r.setState_cases w v with ⟨-, e⟩ | ⟨-, -, e⟩ | ⟨hw, -, e⟩ <;> rw [e]
  · exact memOk_badRef h 2 w
  · exact h
  · exact memOk_stWrite r _ h (smAddr_lt hw)

theorem memOk_getState (h : r.MemOk) (w : StateRef) : (r.getState w).MemOk := by
  rcases r.getState_cases w with ⟨-, e⟩ | ⟨-, -, e⟩ | ⟨-, -, _, -, e⟩ | ⟨-, -, -, e⟩ <;> rw [e]
  · exact memOk_badRef h 3 w
  · exact h
  · exact h
  · exact h

theorem memOk_setCtrl (h : r.MemOk) (ch prof : Nat) (enOut enIir : Bool) :
    (r.setCtrl ch prof enOut enIir).MemOk := by
  rcases r.setCtrl_cases ch prof enOut enIir with ⟨-, e⟩ | ⟨_, -, -, e⟩ | ⟨-, -, -, e⟩ <;> rw [e] <;>
    exact h

/-! ## The engine's ports -/

theorem smX0_lt (ch : Fin c.nCh) : smX0 c ch.val < smWords c :=
  smAddr_lt (w := .x0 ch.val) (decide_eq_true ch.isLt)

theorem smX1_lt (ch : Fin c.nCh) : smX1 c ch.val < smWords c :=
  smAddr_lt (w := .x1 ch.val) (decide_eq_true ch.isLt)

theorem calcY1_lt (r : Regs c) : r.calcY1 < smWords c :=
  smAddr_lt (w := .y1 r.calcChan.val r.calcProf.toNat)
    (by simp only [refOk, r.calcChan.isLt, r.calcProf.isLt, decide_true, Bool.and_self])

theorem memOk_filtBusyStart (h : r.MemOk) : r.filtBusyStart.MemOk := by
  rw [filtBusyStart_eq]; exact h

theorem memOk_loadSd (h : n.MemOk) (a : Nat) : (r.loadSd n a).MemOk := by
  obtain ⟨fs, sd, e, -⟩ := r.loadSd_keeps n a
  rw [e]; exact h

theorem memOk_fetch (h : n.MemOk) (word : Fin 4) : (r.fetch n word).MemOk := by
  obtain ⟨fs, cq, e, -⟩ := r.fetch_keeps n word
  rw [e]; exact h

theorem memOk_fetchLast (h : n.MemOk) : (r.fetchLast n).MemOk := by
  obtain ⟨fs, cx, e, -⟩ := r.fetchLast_keeps n
  rw [e]; exact h

theorem memOk_calcP0 (h : n.MemOk) : (r.calcP0 n).MemOk := by
  unfold calcP0
  split
  · exact memOk_loadSd (r := r) h _
  · exact h

theorem memOk_calcP1 (h : n.MemOk) : (r.calcP1 n).MemOk := by
  unfold calcP1
  split
  · exact memOk_loadSd (r := r) h _
  · exact h

theorem memOk_calcP2 (h : n.MemOk) : (r.calcP2 n).MemOk := by
  unfold calcP2
  split
  · exact memOk_loadSd (r := r) h _
  · exact h

theorem memOk_calcP3 (h : n.MemOk) : (r.calcP3 n).MemOk := by
  unfold calcP3
  split
  · show (if r.gate then n.stWrite r.calcY1 r.calcY else n).MemOk
    split
    · exact memOk_stWrite n _ h r.calcY1_lt
    · exact h
  · exact h

/-! ## Micro-operations -/

theorem memOk_doIdleWait (h : r.MemOk) : r.doIdleWait.MemOk := by
  unfold doIdleWait
  split <;> exact h

theorem memOk_doLoadSx (h : r.MemOk) : r.doLoadSx.MemOk := by
  show (if r.reading then r.filtBusyStart.raise _ _ else _).MemOk
  split <;> exact memOk_filtBusyStart h

theorem memOk_acqCount (h : r.MemOk) (load : Nat) (next : AcqState) : (r.acqCount load next).MemOk := by
  rw [acqCount_eq]; exact h

theorem memOk_doAcqIdle (h : r.MemOk) : r.doAcqIdle.MemOk := by
  unfold doAcqIdle
  split <;> exact h

theorem memOk_doAcqRtt (h : r.MemOk) : r.doAcqRtt.MemOk := by
  unfold doAcqRtt
  rw [acqBusyStart_eq]
  dsimp only
  split <;> exact h

theorem memOk_doOutStart (h : r.MemOk) : r.doOutStart.MemOk := by
  show (if r.outStart then _ else r).MemOk
  split <;> exact h

theorem memOk_doOutBusy (h : r.MemOk) : r.doOutBusy.MemOk := by
  unfold doOutBusy
  cases r.outStart <;> dsimp only <;> split <;> exact h


end Sys2Proof.Machine.Regs

namespace Sys2Proof.Laws

open Sys2Proof.Machine Sys2Proof.Machine.Regs

variable {c : Config} {r : Regs c}

/-- Every instruction keeps the memories' form. -/
theorem memOk_act (h : r.MemOk) (i : Instr) : (act i r).MemOk := by
  cases i with
  | setCoeffFtw1 | setCoeffB1 | setCoeffPow | setCoeffCfg | setCoeffOffset | setCoeffA1
  | setCoeffFtw0 | setCoeffB0 => exact memOk_setCoeff h _ _ _ _
  | getCoeffFtw1 | getCoeffB1 | getCoeffPow | getCoeffCfg | getCoeffOffset | getCoeffA1
  | getCoeffFtw0 | getCoeffB0 => exact memOk_getCoeff h _ _ _
  | setStateY1 | setStateX0 | setStateX1 => exact memOk_setState h _ _
  | getStateY1 | getStateX0 | getStateX1 => exact memOk_getState h _
  | setCtrl => exact memOk_setCtrl h _ _ _ _
  | idleWait => exact memOk_doIdleWait h
  | loadSx => exact memOk_doLoadSx h
  | loadWr => exact memOk_stWrite _ _ (memOk_filtBusyStart h) (smX0_lt _)
  | procP0 => exact memOk_calcP0 (r := r) (memOk_fetch (r := r) (memOk_filtBusyStart h) 0)
  | procP1 => exact memOk_calcP1 (r := r) (memOk_fetch (r := r) (memOk_filtBusyStart h) 1)
  | procP2 => exact memOk_calcP2 (r := r) (memOk_fetch (r := r) (memOk_filtBusyStart h) 2)
  | procP3 => exact memOk_calcP3 (r := r) (memOk_fetchLast (r := r) (memOk_filtBusyStart h))
  | shiftRd => exact memOk_loadSd (r := r) (memOk_filtBusyStart h) _
  | shiftWr => exact memOk_stWrite _ _ (memOk_filtBusyStart h) (smX1_lt _)
  | acqIdle => exact memOk_doAcqIdle h
  | acqCnvh | acqConv | acqRead => exact memOk_acqCount h _ _
  | acqRtt => exact memOk_doAcqRtt h
  | outStart => exact memOk_doOutStart h
  | outBusy => exact memOk_doOutBusy h

theorem memOk_hostAct (h : r.MemOk) : (hostAct r).MemOk := by
  unfold hostAct
  split
  · exact h
  · split
    · exact memOk_act h _
    · exact h

/-- Of the four parts of a tick only the host's and the engine's reach a memory (R88). -/
theorem memOk_tickAct (h : r.MemOk) : (tickAct r).MemOk := by
  obtain ⟨hcm, hsm, hcmb, hsmb⟩ := memOk_hostAct h
  obtain ⟨-, esm, -, esmb⟩ := memOk_act h r.engineOp
  unfold MemOk
  rw [tickAct_cm, tickAct_sm]
  cases r.engineWritesSm with
  | true => exact ⟨hcm, esm, hcmb, esmb⟩
  | false => exact ⟨hcm, hsm, hcmb, hsmb⟩

end Sys2Proof.Laws
end

section
/-! PROOFS. The stages' place in the sampling cycle (43_scheduler.md rules R296, R298, R299): what a
checked configuration says of the durations, what one tick does to each stage's counters, and why no
start reaches a busy stage. -/

namespace Sys2Proof.Config

variable {c : Config}

/-! ## What the checks say (R362) -/

theorem holds_of_valid (h : c.valid = true) (k : Check) : c.holds k = true := by
  have hnil : c.failedChecks = [] := of_decide_eq_true h
  have hmem : k ∈ [Check.cf1, .cf2, .cf3, .cf4, .cf5, .cf6, .cf7, .cf8, .cf9] := by
    cases k <;> decide
  simpa using List.filter_eq_nil_iff.1 hnil k hmem

theorem durations_pos (h : c.valid = true) :
    0 < c.acq.tCnvh ∧ 0 < c.acq.tConv ∧ 0 < c.acq.tRtt ∧ 0 < c.out.clkDivisor ∧ 0 < c.W := by
  simpa [holds, and_assoc] using holds_of_valid h .cf3

theorem two_le_tConv (h : c.valid = true) : 2 ≤ c.acq.tConv := by
  simpa [holds] using holds_of_valid h .cf7

/-- A sweep with its shift is shorter than the cycle (R300). -/
theorem sweep_lt_tCycle (h : c.valid = true) : 8 * c.nCh + 5 < c.tCycle := by
  simpa [holds] using holds_of_valid h .cf5

/-- Reading the lanes out takes at least one tick: CF2 makes the division exact. -/
theorem tRead_pos (h : c.valid = true) : 0 < c.tRead := by
  obtain ⟨⟨hl, -⟩, hdvd⟩ : (1 ≤ c.acq.lanes ∧ c.nCh % c.acq.lanes = 0) ∧
      c.W * c.nCh % (2 * c.acq.lanes) = 0 := by
    simpa [holds] using holds_of_valid h .cf2
  obtain ⟨-, -, -, -, hw⟩ := durations_pos h
  have hle : 2 * c.acq.lanes ≤ c.W * c.nCh :=
    Nat.le_of_dvd (Nat.mul_pos hw (Nat.two_pow_pos _)) (Nat.dvd_of_mod_eq_zero hdvd)
  rw [tRead, Nat.div_div_eq_div_mul, Nat.mul_comm c.acq.lanes]
  exact Nat.div_pos hle (by omega)

theorem two_le_tOutput (h : c.valid = true) : 2 ≤ c.tOutput := by
  obtain ⟨-, -, -, hdiv, -⟩ := durations_pos h
  have : 0 < (2 * c.OW + 1) * c.out.clkDivisor := Nat.mul_pos (by omega) hdiv
  unfold tOutput
  omega

theorem tAcq_le_tCycle (c : Config) : c.tAcq ≤ c.tCycle := Nat.le_max_left _ _

theorem tFilter_le_tCycle (c : Config) : c.tFilter ≤ c.tCycle :=
  (Nat.le_max_left _ _).trans (Nat.le_max_right _ _)

theorem tOutput_le_tCycle (c : Config) : c.tOutput ≤ c.tCycle :=
  (Nat.le_max_right _ _).trans (Nat.le_max_right _ _)

end Sys2Proof.Config

namespace Sys2Proof.Laws

open Sys2Proof.Machine Sys2Proof.Machine.Regs

variable {c : Config}

/-! ## What one tick does to a stage's counters -/

/-- Everything an acquisition tick does to `acq_state` and `acq_cnt` (R151 to R156). -/
theorem acqTick_cases (r : Regs c) :
    (r.acq.state = .idle ∧ r.acqStart = false ∧ (act r.acqOp r).acq.state = .idle) ∨
    (r.acq.state = .idle ∧ r.acqStart = true ∧
      (act r.acqOp r).acq.state = .cnvh ∧ (act r.acqOp r).acq.cnt = c.acq.tCnvh - 1) ∨
    (r.acq.state ≠ .idle ∧ r.acq.cnt ≠ 0 ∧
      (act r.acqOp r).acq.state = r.acq.state ∧ (act r.acqOp r).acq.cnt = r.acq.cnt - 1) ∨
    (r.acq.state = .cnvh ∧ r.acq.cnt = 0 ∧
      (act r.acqOp r).acq.state = .conv ∧ (act r.acqOp r).acq.cnt = c.acq.tConv - 2) ∨
    (r.acq.state = .conv ∧ r.acq.cnt = 0 ∧
      (act r.acqOp r).acq.state = .read ∧ (act r.acqOp r).acq.cnt = c.tRead - 1) ∨
    (r.acq.state = .read ∧ r.acq.cnt = 0 ∧
      (act r.acqOp r).acq.state = .rtt ∧ (act r.acqOp r).acq.cnt = c.acq.tRtt - 1) ∨
    (r.acq.state = .rtt ∧ r.acq.cnt = 0 ∧ (act r.acqOp r).acq.state = .idle) := by
  cases hs : r.acq.state with
  | idle => cases hst : r.acqStart <;> simp [acqOp, hs, act, doAcqIdle, hst]
  | cnvh => by_cases hc : r.acq.cnt = 0 <;> simp [acqOp, hs, act, acqCount_eq, hc]
  | conv => by_cases hc : r.acq.cnt = 0 <;> simp [acqOp, hs, act, acqCount_eq, hc]
  | read => by_cases hc : r.acq.cnt = 0 <;> simp [acqOp, hs, act, acqCount_eq, hc]
  | rtt => by_cases hc : r.acq.cnt = 0 <;> simp [acqOp, hs, act, doAcqRtt, hc]

/-- The last tick of a walking state (R193). -/
def walkLast (c : Config) : FState → Nat
  | .idle => 0
  | .load => 2 * c.nCh - 1
  | .process => 4 * c.nCh + 3
  | .shift => 2 * c.nCh - 1

/-- The state after a walking state's last tick (R193). -/
def walkNext : FState → FState
  | .idle => .idle
  | .load => .process
  | .process => .shift
  | .shift => .idle

/-- A busy engine's tick walks, whatever else it does (R193). -/
theorem engineTick_walks (r : Regs c) (h : r.filt.state ≠ .idle) :
    ∃ n, act r.engineOp r = r.walk n (walkLast c r.filt.state) (walkNext r.filt.state) := by
  unfold engineOp
  cases hs : r.filt.state with
  | idle => exact absurd hs h
  | load => dsimp only; split <;> exact ⟨_, rfl⟩
  | process =>
    dsimp only
    split
    · exact ⟨_, rfl⟩
    · split
      · exact ⟨_, rfl⟩
      · split <;> exact ⟨_, rfl⟩
  | shift => dsimp only; split <;> exact ⟨_, rfl⟩

/-- Everything an engine tick does to `f_state` and `f_k` (R193, R195, R196). -/
theorem engineTick_cases (r : Regs c) :
    (r.filt.state = .idle ∧ r.filtStart = false ∧
      (act r.engineOp r).filt.state = .idle ∧ (act r.engineOp r).filt.k = r.filt.k) ∨
    (r.filt.state = .idle ∧ r.filtStart = true ∧
      (act r.engineOp r).filt.state = .load ∧ (act r.engineOp r).filt.k = 0) ∨
    (r.filt.state ≠ .idle ∧ r.filt.k ≠ walkLast c r.filt.state ∧
      (act r.engineOp r).filt.state = r.filt.state ∧ (act r.engineOp r).filt.k = r.filt.k + 1) ∨
    (r.filt.state ≠ .idle ∧ r.filt.k = walkLast c r.filt.state ∧
      (act r.engineOp r).filt.state = walkNext r.filt.state ∧ (act r.engineOp r).filt.k = 0) := by
  by_cases hs : r.filt.state = .idle
  · cases hst : r.filtStart <;> simp [engineOp, hs, act, doIdleWait, hst]
  · obtain ⟨n, e⟩ := engineTick_walks r hs
    by_cases hl : r.filt.k = walkLast c r.filt.state
    · rw [walk_leave r n hl] at e
      exact .inr (.inr (.inr ⟨hs, hl, by rw [e], by rw [e]⟩))
    · rw [walk_count r n hl] at e
      exact .inr (.inr (.inl ⟨hs, hl, by rw [e], by rw [e]⟩))

/-- Everything an output tick does to `o_busy` and `o_cnt` (R262, R263). -/
theorem outTick_cases (r : Regs c) :
    (r.out.busy = false ∧ r.outStart = false ∧ (act r.outOp r).out.busy = false) ∨
    (r.out.busy = false ∧ r.outStart = true ∧
      (act r.outOp r).out.busy = true ∧ (act r.outOp r).out.cnt = c.tOutput - 2) ∨
    (r.out.busy = true ∧ r.out.cnt = 0 ∧ (act r.outOp r).out.busy = false) ∨
    (r.out.busy = true ∧ r.out.cnt ≠ 0 ∧
      (act r.outOp r).out.busy = true ∧ (act r.outOp r).out.cnt = r.out.cnt - 1) := by
  cases hb : r.out.busy with
  | false => cases hst : r.outStart <;> simp [outOp, hb, act, doOutStart, hst]
  | true => by_cases hc : r.out.cnt = 0 <;> simp [outOp, hb, act, doOutBusy, hc]

/-! ## The counters' ranges -/

/-- The ticks an acquisition state lasts (R151, R153 to R156). -/
def acqTicks (c : Config) : AcqState → Nat
  | .idle => 0
  | .cnvh => c.acq.tCnvh
  | .conv => c.acq.tConv - 1
  | .read => c.tRead
  | .rtt => c.acq.tRtt

/-- `CountersOk`, one range per counter: a countdown is below its state's ticks, a walk has not
passed its last tick. -/
theorem countersOk_iff (r : Regs c) :
    r.CountersOk ↔ (r.acq.state ≠ .idle → r.acq.cnt < acqTicks c r.acq.state) ∧
      r.filt.k ≤ walkLast c r.filt.state ∧ (r.out.busy = true → r.out.cnt ≤ c.tOutput - 2) ∧
      r.sched.cnt < c.tCycle := by
  have hn : 0 < c.nCh := Nat.two_pow_pos _
  unfold CountersOk
  cases r.acq.state <;> cases r.filt.state <;>
    simp [acqTicks, walkLast, Config.tLoad, Config.tProc, Config.tShift] <;> omega

variable {r : Regs c}

theorem acqTick_cnt_lt (hv : c.valid = true)
    (h : r.acq.state ≠ .idle → r.acq.cnt < acqTicks c r.acq.state)
    (hi : (act r.acqOp r).acq.state ≠ .idle) :
    (act r.acqOp r).acq.cnt < acqTicks c (act r.acqOp r).acq.state := by
  obtain ⟨hcnvh, -, hrtt, -, -⟩ := Config.durations_pos hv
  have hconv := Config.two_le_tConv hv
  have hread := Config.tRead_pos hv
  rcases acqTick_cases r with ⟨-, -, hs⟩ | ⟨-, -, hs, hc⟩ | ⟨hb, hne, hs, hc⟩ | ⟨-, -, hs, hc⟩ |
    ⟨-, -, hs, hc⟩ | ⟨-, -, hs, hc⟩ | ⟨-, -, hs⟩
  · exact absurd hs hi
  · rw [hs, hc]; simp only [acqTicks]; omega
  · have := h hb
    rw [hs, hc]; omega
  · rw [hs, hc]; simp only [acqTicks]; omega
  · rw [hs, hc]; simp only [acqTicks]; omega
  · rw [hs, hc]; simp only [acqTicks]; omega
  · exact absurd hs hi

theorem engineTick_k_le (h : r.filt.k ≤ walkLast c r.filt.state) :
    (act r.engineOp r).filt.k ≤ walkLast c (act r.engineOp r).filt.state := by
  rcases engineTick_cases r with ⟨hi, -, hs, hk⟩ | ⟨-, -, hs, hk⟩ | ⟨-, hne, hs, hk⟩ | ⟨-, -, hs, hk⟩ <;>
    rw [hs, hk]
  · rwa [hi] at h
  · exact Nat.zero_le _
  · omega
  · exact Nat.zero_le _

theorem outTick_cnt_le (h : r.out.busy = true → r.out.cnt ≤ c.tOutput - 2)
    (hb : (act r.outOp r).out.busy = true) : (act r.outOp r).out.cnt ≤ c.tOutput - 2 := by
  rcases outTick_cases r with ⟨-, -, hb'⟩ | ⟨-, -, -, hc⟩ | ⟨-, -, hb'⟩ | ⟨hb', -, -, hc⟩
  · rw [hb'] at hb; cases hb
  · exact hc.le
  · rw [hb'] at hb; cases hb
  · have := h hb'
    omega

theorem schedule_cnt_lt (h : r.sched.cnt < c.tCycle) : r.schedule.cnt < c.tCycle := by
  unfold schedule
  dsimp only
  split <;> omega

/-- Every tick keeps the counters in their ranges. -/
theorem countersOk_tickAct (hv : c.valid = true) (hr : r.CountersOk) : (tickAct r).CountersOk := by
  obtain ⟨ha, hf, ho, hs⟩ := (countersOk_iff r).1 hr
  exact (countersOk_iff _).2
    ⟨acqTick_cnt_lt hv ha, engineTick_k_le hf, outTick_cnt_le ho, schedule_cnt_lt hs⟩

/-! ## The stages' positions -/

/-- A busy acquisition stands strictly between its start and its end. -/
theorem acqPos_bounds (hv : c.valid = true) (hr : r.CountersOk) (hs : r.acq.state ≠ .idle) :
    0 < r.acqPos ∧ r.acqPos < c.tAcq := by
  have hc := ((countersOk_iff r).1 hr).1 hs
  obtain ⟨hcnvh, -, hrtt, -, -⟩ := Config.durations_pos hv
  have hconv := Config.two_le_tConv hv
  unfold acqPos Config.tAcq
  cases hst : r.acq.state with
  | idle => exact absurd hst hs
  | cnvh | conv | read | rtt => simp only [hst, acqTicks] at hc ⊢; omega

/-- An acquisition that starts is one tick in. -/
theorem acqTick_starts (hv : c.valid = true) (hs : r.acq.state = .idle) (hst : r.acqStart = true) :
    (act r.acqOp r).acq.state ≠ .idle ∧ (act r.acqOp r).acqPos = 1 := by
  obtain ⟨hcnvh, -, -, -, -⟩ := Config.durations_pos hv
  rcases acqTick_cases r with ⟨-, h, -⟩ | ⟨-, -, h, hc⟩ | ⟨h, -⟩ | ⟨h, -⟩ | ⟨h, -⟩ | ⟨h, -⟩ | ⟨h, -⟩
  · simp [h] at hst
  · simp only [h, acqPos, hc, ne_eq, reduceCtorEq, not_false_eq_true, true_and]; omega
  · exact absurd hs h
  all_goals rw [h] at hs; cases hs

/-- A busy acquisition goes one tick on, or is done when it has taken `T_acq` ticks (R157). -/
theorem acqTick_advances (hv : c.valid = true) (hr : r.CountersOk) (hs : r.acq.state ≠ .idle) :
    ((act r.acqOp r).acq.state = .idle ∧ r.acqPos + 1 = c.tAcq) ∨
    ((act r.acqOp r).acq.state ≠ .idle ∧ (act r.acqOp r).acqPos = r.acqPos + 1) := by
  have hcnt := ((countersOk_iff r).1 hr).1 hs
  obtain ⟨hcnvh, -, hrtt, -, -⟩ := Config.durations_pos hv
  have hconv := Config.two_le_tConv hv
  have hread := Config.tRead_pos hv
  rcases acqTick_cases r with ⟨h, -⟩ | ⟨h, -⟩ | ⟨-, hne, h', hc'⟩ | ⟨h, hc, h', hc'⟩ |
    ⟨h, hc, h', hc'⟩ | ⟨h, hc, h', hc'⟩ | ⟨h, hc, h'⟩
  · exact absurd h hs
  · exact absurd h hs
  · refine .inr ⟨h' ▸ hs, ?_⟩
    unfold acqPos
    rw [h', hc']
    cases hst : r.acq.state with
    | idle => exact absurd hst hs
    | cnvh | conv | read | rtt => simp only [hst, acqTicks] at hcnt ⊢; omega
  · refine .inr ⟨by simp [h'], ?_⟩
    simp only [acqPos, h, h', hc, hc']; omega
  · refine .inr ⟨by simp [h'], ?_⟩
    simp only [acqPos, h, h', hc, hc']; omega
  · refine .inr ⟨by simp [h'], ?_⟩
    simp only [acqPos, h, h', hc, hc']; omega
  · refine .inl ⟨h', ?_⟩
    simp only [acqPos, h, hc, Config.tAcq]; omega

/-- A busy sweep stands strictly between its start and the end of SHIFT (R192). -/
theorem filtPos_bounds (hr : r.CountersOk) (hs : r.filt.state ≠ .idle) :
    0 < r.filtPos ∧ r.filtPos < 8 * c.nCh + 5 := by
  obtain ⟨-, hk, -, -⟩ := (countersOk_iff r).1 hr
  have hn : 0 < c.nCh := Nat.two_pow_pos _
  unfold filtPos Config.tLoad Config.tProc
  cases hst : r.filt.state with
  | idle => exact absurd hst hs
  | load | process | shift => simp only [hst, walkLast] at hk ⊢; omega

/-- A sweep that starts is one tick in, in LOAD (R196). -/
theorem engineTick_starts (hs : r.filt.state = .idle) (hst : r.filtStart = true) :
    (act r.engineOp r).filt.state = .load ∧ (act r.engineOp r).filtPos = 1 := by
  rcases engineTick_cases r with ⟨-, h, -⟩ | ⟨-, -, h, hk⟩ | ⟨h, -⟩ | ⟨h, -⟩
  · simp [h] at hst
  · simp [h, filtPos, hk]
  · exact absurd hs h
  · exact absurd hs h

/-- A busy sweep goes one tick on or ends (R192, R193). -/
theorem engineTick_advances (hs : r.filt.state ≠ .idle) :
    (act r.engineOp r).filt.state = .idle ∨ (act r.engineOp r).filtPos = r.filtPos + 1 := by
  have hn : 0 < c.nCh := Nat.two_pow_pos _
  rcases engineTick_cases r with ⟨h, -⟩ | ⟨h, -⟩ | ⟨-, -, h, hk⟩ | ⟨-, hl, h, hk⟩
  · exact absurd h hs
  · exact absurd h hs
  · refine .inr ?_
    unfold filtPos
    rw [h, hk]
    cases hst : r.filt.state with
    | idle => exact absurd hst hs
    | load | process | shift => exact (Nat.add_assoc _ _ 1).symm
  · unfold filtPos Config.tLoad Config.tProc
    rw [h, hk, hl]
    cases hst : r.filt.state with
    | idle => exact absurd hst hs
    | load | process => right; simp only [walkNext, walkLast]; omega
    | shift => exact .inl rfl

/-- A frame being sent stands strictly between its start and its end (R264). -/
theorem outPos_bounds (hv : c.valid = true) (hr : r.CountersOk) (hb : r.out.busy = true) :
    0 < r.outPos ∧ r.outPos < c.tOutput := by
  obtain ⟨-, -, ho, -⟩ := (countersOk_iff r).1 hr
  have hcnt := ho hb
  have htwo := Config.two_le_tOutput hv
  rw [outPos, if_pos hb]
  omega

/-- A frame that starts is one tick in (R262). -/
theorem outTick_starts (hv : c.valid = true) (hb : r.out.busy = false) (hst : r.outStart = true) :
    (act r.outOp r).out.busy = true ∧ (act r.outOp r).outPos = 1 := by
  have htwo := Config.two_le_tOutput hv
  rcases outTick_cases r with ⟨-, h, -⟩ | ⟨-, -, h, hc⟩ | ⟨h, -⟩ | ⟨h, -⟩
  · simp [h] at hst
  · refine ⟨h, ?_⟩
    rw [outPos, if_pos h, hc]
    omega
  · simp [h] at hb
  · simp [h] at hb

/-- A frame being sent goes one tick on or is done (R263). -/
theorem outTick_advances (hv : c.valid = true) (hr : r.CountersOk) (hb : r.out.busy = true) :
    (act r.outOp r).out.busy = false ∨ (act r.outOp r).outPos = r.outPos + 1 := by
  obtain ⟨-, -, ho, -⟩ := (countersOk_iff r).1 hr
  have hcnt := ho hb
  have htwo := Config.two_le_tOutput hv
  rcases outTick_cases r with ⟨h, -⟩ | ⟨h, -⟩ | ⟨-, -, h⟩ | ⟨-, hne, h, hc⟩
  · simp [h] at hb
  · simp [h] at hb
  · exact .inl h
  · refine .inr ?_
    rw [outPos, if_pos h, outPos, if_pos hb, hc]
    omega

end Sys2Proof.Laws
end

section
/-! PROOFS. Every step keeps the invariant. -/

namespace Sys2Proof.Laws

open Sys2Proof.Machine Sys2Proof.Machine.Regs

variable {c : Config} {r : Regs c}

theorem inv_iff : Inv ⟨c, r⟩ ↔ c.valid = true ∧ r.MemOk ∧ r.CountersOk ∧ r.StagesOk := Iff.rfl

/-! ## No start reaches a busy stage (R296) -/

/-- The acquisition is over before the counter comes round to 0. -/
theorem acq_idle_of_acqStart (hi : Inv ⟨c, r⟩) (hst : r.acqStart = true) : r.acq.state = .idle := by
  obtain ⟨hv, -, hc, hplace, -⟩ := inv_iff.1 hi
  by_contra hs
  have hpos := hplace hs
  have hbound := acqPos_bounds hv hc hs
  have hle := c.tAcq_le_tCycle
  have hcnt := (r.acqStart_iff.1 hst).2
  omega

/-- A filter start comes `T_acq` ticks into the cycle (R293). -/
theorem cnt_of_filtStart (hi : Inv ⟨c, r⟩) (hst : r.filtStart = true) :
    r.sched.token0 = true ∧ r.acq.state = .idle ∧ r.sched.cnt + c.tAcq = c.tCycle := by
  obtain ⟨-, -, -, -, htok, -⟩ := inv_iff.1 hi
  simp only [filtStart, Bool.and_eq_true, acqDone_iff] at hst
  exact ⟨hst.1, hst.2, htok hst.1 hst.2⟩

/-- The sweep before is over `T_acq` ticks into the cycle: it lasts less than a cycle. -/
theorem filt_idle_of_filtStart (hi : Inv ⟨c, r⟩) (hst : r.filtStart = true) :
    r.filt.state = .idle := by
  obtain ⟨-, -, hnow⟩ := cnt_of_filtStart hi hst
  obtain ⟨hv, -, hc, -, -, hplace, -⟩ := inv_iff.1 hi
  by_contra hs
  have hpos := hplace hs
  have hbound := filtPos_bounds hc hs
  have hsweep := Config.sweep_lt_tCycle hv
  omega

/-- An output start comes at shift entry, `t_filter` ticks into the sweep (R294). -/
theorem shift_of_outStart (hst : r.outStart = true) :
    r.sched.token1 = true ∧ r.filt.state = .shift ∧ r.filt.k = 0 ∧ r.filtPos = c.tFilter := by
  simp only [outStart, shiftEntry, Bool.and_eq_true, beq_iff_eq] at hst
  obtain ⟨htok, hs, hk⟩ := hst
  exact ⟨htok, hs, hk, by simp only [filtPos, hs, hk, Config.tFilter]; omega⟩

/-- The frame before is sent by then: sending takes no longer than a cycle. -/
theorem out_idle_of_outStart (hi : Inv ⟨c, r⟩) (hst : r.outStart = true) : r.out.busy = false := by
  obtain ⟨-, hs, -, hpos⟩ := shift_of_outStart hst
  obtain ⟨hv, -, hc, -, -, hfilt, -, hplace⟩ := inv_iff.1 hi
  by_contra hb
  rw [Bool.not_eq_false] at hb
  have hnow := hfilt (by simp [hs])
  have hout := hplace hb
  have hbound := outPos_bounds hv hc hb
  have hle := c.tOutput_le_tCycle
  omega

/-! ## A tick keeps every stage at its place -/

/-- The cycle counter counts down and comes round (R292). -/
theorem schedule_cnt_cases (h : r.sched.cnt < c.tCycle) :
    (r.sched.cnt ≠ 0 ∧ r.schedule.cnt + 1 = r.sched.cnt) ∨
    (r.sched.cnt = 0 ∧ r.schedule.cnt + 1 = c.tCycle) := by
  unfold schedule
  dsimp only
  split <;> omega

theorem acqTick_place (hi : Inv ⟨c, r⟩) (hb : (act r.acqOp r).acq.state ≠ .idle) :
    r.schedule.cnt + (act r.acqOp r).acqPos = c.tCycle := by
  obtain ⟨hv, -, hc, hplace, -⟩ := inv_iff.1 hi
  have hcnt := schedule_cnt_cases ((countersOk_iff r).1 hc).2.2.2
  by_cases hs : r.acq.state = .idle
  · cases hst : r.acqStart with
    | true =>
      obtain ⟨-, hpos⟩ := acqTick_starts hv hs hst
      have := (r.acqStart_iff.1 hst).2
      omega
    | false => simp [acqOp, hs, act, doAcqIdle, hst] at hb
  · rcases acqTick_advances hv hc hs with ⟨h, -⟩ | ⟨-, hpos⟩
    · exact absurd h hb
    · have hnow := hplace hs
      have hbound := acqPos_bounds hv hc hs
      have hle := c.tAcq_le_tCycle
      omega

/-- `token[0]` is up in IDLE only in the tick after the acquisition's last. -/
theorem token0_place (hi : Inv ⟨c, r⟩) (htok : r.schedule.token0 = true)
    (hs' : (act r.acqOp r).acq.state = .idle) : r.schedule.cnt + c.tAcq = c.tCycle := by
  obtain ⟨hv, -, hc, hplace, -⟩ := inv_iff.1 hi
  have hcnt := schedule_cnt_cases ((countersOk_iff r).1 hc).2.2.2
  by_cases hs : r.acq.state = .idle
  · exfalso
    cases hst : r.acqStart with
    | true => exact (acqTick_starts hv hs hst).1 hs'
    | false => simp [schedule, hst, filtStart, acqDone, hs] at htok
  · rcases acqTick_advances hv hc hs with ⟨-, hpos⟩ | ⟨h, -⟩
    · have hnow := hplace hs
      have hle := c.tAcq_le_tCycle
      omega
    · exact absurd hs' h

theorem engineTick_place (hi : Inv ⟨c, r⟩) (hb : (act r.engineOp r).filt.state ≠ .idle) :
    r.schedule.cnt + c.tAcq + (act r.engineOp r).filtPos = c.tCycle ∨
    r.schedule.cnt + c.tAcq + (act r.engineOp r).filtPos = 2 * c.tCycle := by
  have hstart := cnt_of_filtStart hi
  obtain ⟨hv, -, hc, -, -, hplace, -⟩ := inv_iff.1 hi
  have hcnt := schedule_cnt_cases ((countersOk_iff r).1 hc).2.2.2
  have hle := c.tAcq_le_tCycle
  by_cases hs : r.filt.state = .idle
  · cases hst : r.filtStart with
    | true =>
      obtain ⟨-, -, hnow⟩ := hstart hst
      obtain ⟨-, hpos⟩ := engineTick_starts hs hst
      omega
    | false => simp [engineOp, hs, act, doIdleWait, hst] at hb
  · have hpos := (engineTick_advances hs).resolve_left hb
    have hnow := hplace hs
    have hbound := filtPos_bounds hc hs
    have hsweep := Config.sweep_lt_tCycle hv
    omega

/-- `token[1]` goes up with LOAD and down at shift entry. -/
theorem token1_place (hi : Inv ⟨c, r⟩) (htok : r.schedule.token1 = true) :
    (act r.engineOp r).filt.state = .load ∨ (act r.engineOp r).filt.state = .process ∨
      ((act r.engineOp r).filt.state = .shift ∧ (act r.engineOp r).filt.k = 0) := by
  cases hst : r.filtStart with
  | true => exact .inl (engineTick_starts (filt_idle_of_filtStart hi hst) hst).1
  | false =>
    obtain ⟨hout, htok1⟩ : r.outStart = false ∧ r.sched.token1 = true := by
      simpa [schedule, hst] using htok
    have hentry : ¬ (r.filt.state = .shift ∧ r.filt.k = 0) := by
      simpa [outStart, shiftEntry, htok1] using hout
    obtain ⟨-, -, -, -, -, -, hplace, -⟩ := inv_iff.1 hi
    have hbusy : r.filt.state = .load ∨ r.filt.state = .process :=
      (hplace htok1).imp_right fun h => h.resolve_right hentry
    rcases engineTick_cases r with ⟨h, -⟩ | ⟨h, -⟩ | ⟨-, -, h, -⟩ | ⟨-, -, h, hk⟩
    · simp [h] at hbusy
    · simp [h] at hbusy
    · rw [h]; exact hbusy.imp_right .inl
    · rw [h, hk]
      rcases hbusy with hs | hs <;> simp [hs, walkNext]

theorem outTick_place (hi : Inv ⟨c, r⟩) (hb : (act r.outOp r).out.busy = true) :
    r.schedule.cnt + c.tAcq + c.tFilter + (act r.outOp r).outPos = c.tCycle ∨
    r.schedule.cnt + c.tAcq + c.tFilter + (act r.outOp r).outPos = 2 * c.tCycle ∨
    r.schedule.cnt + c.tAcq + c.tFilter + (act r.outOp r).outPos = 3 * c.tCycle := by
  obtain ⟨hv, -, hc, -, -, hfilt, -, hplace⟩ := inv_iff.1 hi
  have hcnt := schedule_cnt_cases ((countersOk_iff r).1 hc).2.2.2
  have hacq := c.tAcq_le_tCycle
  have hfil := c.tFilter_le_tCycle
  cases hs : r.out.busy with
  | false =>
    cases hst : r.outStart with
    | true =>
      obtain ⟨-, hshift, -, hentry⟩ := shift_of_outStart hst
      have hnow := hfilt (by simp [hshift])
      obtain ⟨-, hpos⟩ := outTick_starts hv hs hst
      omega
    | false => simp [outOp, hs, act, doOutStart, hst] at hb
  | true =>
    have hpos := (outTick_advances hv hc hs).resolve_left (by simp [hb])
    have hnow := hplace hs
    have hbound := outPos_bounds hv hc hs
    have hout := c.tOutput_le_tCycle
    omega

/-- Every tick keeps every stage at its place (R296, R298, R299). -/
theorem stagesOk_tickAct (hi : Inv ⟨c, r⟩) : (tickAct r).StagesOk :=
  ⟨acqTick_place hi, token0_place hi, engineTick_place hi, token1_place hi, outTick_place hi⟩

/-! ## A step keeps the invariant -/

/-- A tick, its inputs presented, keeps the invariant. -/
theorem inv_tickAct (hi : Inv ⟨c, r⟩) : Inv ⟨c, tickAct r⟩ := by
  obtain ⟨hv, hm, hc, -⟩ := inv_iff.1 hi
  exact ⟨hv, memOk_tickAct hm, countersOk_tickAct hv hc, stagesOk_tickAct hi⟩

/-- Registers at reset, whatever the memories hold, are in range and at their place. -/
theorem inv_of_atReset (hv : c.valid = true) (hm : r.MemOk) (ha : r.acq = AcqRegs.atReset c)
    (hf : r.filt = FiltRegs.atReset c) (ho : r.out = OutRegs.atReset c)
    (hs : r.sched = SchedRegs.atReset) : Inv ⟨c, r⟩ := by
  have hcycle : 0 < c.tCycle := by have := Config.sweep_lt_tCycle hv; omega
  refine ⟨hv, hm, (countersOk_iff r).2 ?_, ?_⟩
  · simp [ha, hf, ho, hs, AcqRegs.atReset, FiltRegs.atReset, OutRegs.atReset, SchedRegs.atReset,
      hcycle]
  · simp [StagesOk, ha, hf, ho, hs, AcqRegs.atReset, FiltRegs.atReset, OutRegs.atReset,
      SchedRegs.atReset]

/-- Every step keeps the invariant: presenting inputs changes no register it speaks of, a reset keeps
the memories and puts every stage to idle, and a tick keeps memories, counters and stages in turn. -/
theorem inv_step {s t : State} (hi : Inv s) (hstep : step s = .next t) : Inv t := by
  obtain ⟨c, r⟩ := s
  obtain ⟨hv, hm, -⟩ := inv_iff.1 hi
  have hpresent : ∀ inp rest, Inv ⟨c, r.present inp rest⟩ := fun _ _ => hi
  rcases step_cases hstep with ⟨inp, rest, -, -, rfl⟩ | ⟨inp, rest, -, -, rfl⟩ | ⟨rest, -, rfl⟩ |
    ⟨rest, -, rfl⟩
  · exact hpresent inp rest
  · exact inv_tickAct (hpresent inp rest)
  · exact inv_of_atReset hv (memOk_applyReset _ hm) rfl rfl rfl rfl
  · exact inv_of_atReset hv (memOk_applyPowerUp _) rfl rfl rfl rfl

end Sys2Proof.Laws

namespace Sys2Proof.Proofs

open Sys2Proof.Machine Sys2Proof.Laws

/-- Settles O2, by the cases of a step. -/
theorem stepKeepsTheInvariant : Obligations.StepKeepsTheInvariant :=
  fun _ _ hi hstep => inv_step hi hstep

end Sys2Proof.Proofs
end

section
/-! PROOFS. What a step runs (20_memory.md rule R94): the instructions its patterns and its selector
decode to, and no stage sees the host operation of its own tick (44_host_interface.md rule R320). -/

namespace Sys2Proof.Laws

open Sys2Proof.Machine

variable {c : Config}

/-! ## The stages' patterns decode to what the step runs (R123, R126) -/

theorem decode_acqCode (r : Regs c) : decode c r.acqCode = .ok r.acqOp := by
  unfold Regs.acqCode Regs.acqOp
  cases r.acq.state <;> rfl

theorem decode_outCode (r : Regs c) : decode c r.outCode = .ok r.outOp := by
  unfold Regs.outCode Regs.outOp
  cases r.out.busy <;> rfl

/-- In IDLE `q` is ignored (R123). -/
theorem decodeEngine_idle : ∀ q : BitVec 2, decodeEngine (BitVec.ofNat 2 0 ++ q) = .ok .idleWait := by
  decide

/-- The pattern's `q` in PROCESS is the phase. -/
theorem ofNat_two_eq_mod (k : Nat) : BitVec.ofNat 2 k = BitVec.ofNat 2 (k % 4) :=
  BitVec.eq_of_toNat_eq (by simp)

theorem decode_engineCode (r : Regs c) : decode c r.engineCode = .ok r.engineOp := by
  unfold Regs.engineCode Regs.engineOp
  cases r.filt.state with
  | idle => exact decodeEngine_idle _
  | load | shift => rcases Nat.mod_two_eq_zero_or_one r.filt.k with h | h <;> simp only [h] <;> rfl
  | process =>
    have hphase : r.filt.k % 4 = 0 ∨ r.filt.k % 4 = 1 ∨ r.filt.k % 4 = 2 ∨ r.filt.k % 4 = 3 := by omega
    rcases hphase with h | h | h | h <;> simp only [ofNat_two_eq_mod r.filt.k, Regs.phase, h] <;> rfl

/-! ## The host's part of a tick -/

theorem hostAct_of_none {r : Regs c} (h : r.inp.op = none) : hostAct r = r := by
  simp [hostAct, h]

/-- The host's part is the instruction its selector or its call stands for. -/
theorem hostAct_of_instr {r : Regs c} {op : HostOp c} {i : Instr} (h : r.inp.op = some op)
    (hi : op.instr = .ok i) : hostAct r = act i r := by
  simp [hostAct, h, hi]

theorem instr_of_word {sel : BitVec c.selW} {v : Int} {i : Instr}
    (h : decode c (.hostop sel v) = .ok i) : (HostOp.word sel v).instr = .ok i := by
  rw [decode] at h
  simp [HostOp.instr, h]

theorem instr_of_named {n : NamedCall} {call : HostCall} (h : resolveCall n = some call) :
    (HostOp.named (c := c) n).instr = .ok call.instr := by
  simp [HostOp.instr, h]

theorem eq_act_of_exec {i : Instr} {r t : Regs c} (h : exec i ⟨c, r⟩ = .next ⟨c, t⟩) : t = act i r := by
  rw [exec_eq] at h
  cases h
  rfl

end Sys2Proof.Laws

namespace Sys2Proof.Machine.Regs

variable {c : Config}

/-! ## The stages do not see the host operation -/

/-- The registers with another host operation for the tick. -/
def withOp (r : Regs c) (op : Option (HostOp c)) : Regs c := { r with inp := { r.inp with op := op } }

section
variable (r n : Regs c) (op : Option (HostOp c))

theorem acqBusyStart_withOp : (r.withOp op).acqBusyStart = r.acqBusyStart.withOp op := by
  show (if r.acqStart then _ else _) = withOp (if r.acqStart then _ else _) op
  split <;> rfl

theorem acqCount_withOp (load : Nat) (next : AcqState) :
    (r.withOp op).acqCount load next = (r.acqCount load next).withOp op := by
  simp only [acqCount, acqBusyStart_withOp]
  show (if r.acq.cnt = 0 then _ else _) = _
  split <;> rfl

theorem doAcqIdle_withOp : (r.withOp op).doAcqIdle = r.doAcqIdle.withOp op := by
  show (if r.acqStart then _ else _) = withOp (if r.acqStart then _ else _) op
  split <;> rfl

theorem doAcqRtt_withOp : (r.withOp op).doAcqRtt = r.doAcqRtt.withOp op := by
  simp only [doAcqRtt, acqBusyStart_withOp]
  show (if r.acq.cnt = 0 then _ else _) = _
  split <;> rfl

theorem filtBusyStart_withOp : (r.withOp op).filtBusyStart = r.filtBusyStart.withOp op := by
  show (if r.filtStart then _ else _) = withOp (if r.filtStart then _ else _) op
  split <;> rfl

theorem loadSd_withOp (a : Nat) : (r.withOp op).loadSd (n.withOp op) a = (r.loadSd n a).withOp op := by
  unfold loadSd
  rw [show (r.withOp op).stRead a = r.stRead a from rfl]
  cases r.stRead a <;> rfl

theorem fetch_withOp (word : Fin 4) :
    (r.withOp op).fetch (n.withOp op) word = (r.fetch n word).withOp op := by
  show (if r.fetches then _ else _) = withOp (if r.fetches then _ else _) op
  split
  · rw [show (r.withOp op).coefRead ((r.withOp op).fetchAddr word.val) =
      r.coefRead (r.fetchAddr word.val) from rfl]
    cases r.coefRead (r.fetchAddr word.val) <;> rfl
  · rfl

theorem fetchLast_withOp : (r.withOp op).fetchLast (n.withOp op) = (r.fetchLast n).withOp op := by
  show (if r.fetches then _ else _) = withOp (if r.fetches then _ else _) op
  split
  · rw [show (r.withOp op).coefRead ((r.withOp op).fetchAddr 3) = r.coefRead (r.fetchAddr 3) from rfl]
    cases r.coefRead (r.fetchAddr 3) <;> rfl
  · rfl

theorem calcP0_withOp : (r.withOp op).calcP0 (n.withOp op) = (r.calcP0 n).withOp op := by
  simp only [calcP0, loadSd_withOp]
  show (if r.calculates then _ else _) = _
  split <;> rfl

theorem calcP1_withOp : (r.withOp op).calcP1 (n.withOp op) = (r.calcP1 n).withOp op := by
  simp only [calcP1, loadSd_withOp]
  show (if r.calculates then _ else _) = _
  split <;> rfl

theorem calcP2_withOp : (r.withOp op).calcP2 (n.withOp op) = (r.calcP2 n).withOp op := by
  simp only [calcP2, loadSd_withOp]
  show (if r.calculates then _ else _) = _
  split <;> rfl

theorem calcP3_withOp : (r.withOp op).calcP3 (n.withOp op) = (r.calcP3 n).withOp op := by
  show (if r.calculates then _ else _) = withOp (if r.calculates then _ else _) op
  split
  · rw [show (r.withOp op).gate = r.gate from rfl]
    cases r.gate <;> rfl
  · rfl

theorem doIdleWait_withOp : (r.withOp op).doIdleWait = r.doIdleWait.withOp op := by
  show (if r.filtStart then _ else _) = withOp (if r.filtStart then _ else _) op
  split <;> rfl

theorem doLoadSx_withOp : (r.withOp op).doLoadSx = r.doLoadSx.withOp op := by
  simp only [doLoadSx, filtBusyStart_withOp]
  rw [show (r.withOp op).reading = r.reading from rfl]
  cases r.reading <;> rfl

theorem doOutStart_withOp : (r.withOp op).doOutStart = r.doOutStart.withOp op := by
  unfold doOutStart
  rw [show (r.withOp op).outStart = r.outStart from rfl]
  cases r.outStart <;> rfl

theorem doOutBusy_withOp : (r.withOp op).doOutBusy = r.doOutBusy.withOp op := by
  unfold doOutBusy
  rw [show (r.withOp op).outStart = r.outStart from rfl, show (r.withOp op).out = r.out from rfl]
  cases r.outStart <;> dsimp only <;> split <;> rfl

end
end Sys2Proof.Machine.Regs

namespace Sys2Proof.Laws

open Sys2Proof.Machine Sys2Proof.Machine.Regs

variable {c : Config} (r : Regs c) (op : Option (HostOp c))

theorem act_acqOp_withOp : act r.acqOp (r.withOp op) = (act r.acqOp r).withOp op := by
  unfold acqOp
  cases r.acq.state with
  | idle => exact doAcqIdle_withOp r op
  | cnvh | conv | read => exact acqCount_withOp r op _ _
  | rtt => exact doAcqRtt_withOp r op

/-- A walk carries another host operation along. -/
theorem walk_withOp {n n' : Regs c} (h : n' = n.withOp op) (last : Nat) (next : FState) :
    (r.withOp op).walk n' last next = (r.walk n last next).withOp op := by
  subst h
  rfl

theorem act_engineOp_withOp : act r.engineOp (r.withOp op) = (act r.engineOp r).withOp op := by
  have hb := filtBusyStart_withOp r op
  unfold engineOp
  cases r.filt.state with
  | idle => exact doIdleWait_withOp r op
  | load =>
    dsimp only
    split
    · exact doLoadSx_withOp r op
    · exact walk_withOp r op (by rw [hb]; rfl) _ _
  | process =>
    dsimp only
    split
    · exact walk_withOp r op (by rw [hb, fetch_withOp, calcP0_withOp]) _ _
    · split
      · exact walk_withOp r op (by rw [hb, fetch_withOp, calcP1_withOp]) _ _
      · split
        · exact walk_withOp r op (by rw [hb, fetch_withOp, calcP2_withOp]) _ _
        · exact walk_withOp r op (by rw [hb, fetchLast_withOp, calcP3_withOp]) _ _
  | shift =>
    dsimp only
    split
    · exact walk_withOp r op (by rw [hb]; exact loadSd_withOp _ _ _ _) _ _
    · exact walk_withOp r op (by rw [hb]; rfl) _ _

theorem act_outOp_withOp : act r.outOp (r.withOp op) = (act r.outOp r).withOp op := by
  unfold outOp
  split
  · exact doOutBusy_withOp r op
  · exact doOutStart_withOp r op

/-- A tick leaves the stages' registers the same whatever the host operation it comes with. -/
theorem tickAct_withOp :
    (tickAct (r.withOp op)).acq = (tickAct r).acq ∧ (tickAct (r.withOp op)).filt = (tickAct r).filt ∧
    (tickAct (r.withOp op)).out = (tickAct r).out ∧
    (tickAct (r.withOp op)).sched = (tickAct r).sched ∧
    (tickAct (r.withOp op)).draws = (tickAct r).draws := by
  have hacq := congrArg Regs.acq (act_acqOp_withOp r op)
  have hfilt := congrArg Regs.filt (act_engineOp_withOp r op)
  have hout := congrArg Regs.out (act_outOp_withOp r op)
  have hdraws := congrArg Regs.draws (act_acqOp_withOp r op)
  exact ⟨hacq, hfilt, hout, rfl, hdraws⟩

end Sys2Proof.Laws

namespace Sys2Proof.Proofs

open Sys2Proof.Machine Sys2Proof.Laws

/-- Settles O8: every instruction's outcome is `act`, the patterns decode to the stages' operations,
and the host's selector, call or name to the host's. -/
theorem stepRunsTheDecodedInstructions : Obligations.StepRunsTheDecodedInstructions := by
  intro c r h a e o inp rest ia ie io hv hf he hia hie hio hhost ha hen ho
  have hhost : h = hostAct (r.present inp rest) := by
    rcases hhost with ⟨hop, rfl⟩ | ⟨sel, v, ih, hop, hdec, hex⟩ | ⟨call, hop | ⟨n, hop, hres⟩, hex⟩
    · exact (hostAct_of_none hop).symm
    · rw [hostAct_of_instr hop (instr_of_word hdec)]; exact eq_act_of_exec hex
    · rw [hostAct_of_instr hop rfl]; exact eq_act_of_exec hex
    · rw [hostAct_of_instr hop (instr_of_named hres)]; exact eq_act_of_exec hex
  rw [decode_acqCode] at hia
  rw [decode_engineCode] at hie
  rw [decode_outCode] at hio
  cases hia
  cases hie
  cases hio
  rw [step_tick hv hf he, hhost, eq_act_of_exec ha, eq_act_of_exec hen, eq_act_of_exec ho, ← hf]
  rfl

/-- Settles O10: both ticks are those of one state with a host operation put in. -/
theorem stagesIgnoreTheHostOperationOfTheirTick :
    Obligations.StagesIgnoreTheHostOperationOfTheirTick := by
  intro c r t u inp op op' rest ht hu hf
  have hv := valid_of_step ht
  have tick : ∀ op, step ⟨c, { r with script := .tick { inp with op := op } :: rest }⟩ =
      .next ⟨c, tickAct ((r.present inp rest).withOp op)⟩ :=
    fun op => step_tick hv hf (nextEvent_of_cons rfl)
  rw [tick] at ht hu
  cases ht
  cases hu
  obtain ⟨hacq, hfilt, hout, hsched, hdraws⟩ := tickAct_withOp (r.present inp rest) op
  obtain ⟨hacq', hfilt', hout', hsched', hdraws'⟩ := tickAct_withOp (r.present inp rest) op'
  exact ⟨hacq.trans hacq'.symm, hfilt.trans hfilt'.symm, hout.trans hout'.symm,
    hsched.trans hsched'.symm, hdraws.trans hdraws'.symm⟩

end Sys2Proof.Proofs
end

section
/-! PROOFS. What each engine micro-operation writes, and nothing besides (20_memory.md rule R88,
41_filter_engine.md rules R190, R205, R206, R213, R214, R222). -/

namespace Sys2Proof.Machine.Regs

variable {c : Config} (r n : Regs c)

/-! ## The frames of the phases -/

/-- `PROC_P0`'s computation writes `SD`, `acc` and a record; in slot 0 nothing. -/
theorem calcP0_keeps :
    ∃ fs sd acc, r.calcP0 n = { n with faults := fs, filt := { n.filt with sd := sd, acc := acc } } ∧
      (∀ f ∈ n.faults, f ∈ fs) ∧ (r.calculates = false → sd = n.filt.sd ∧ acc = n.filt.acc) := by
  cases h : r.calculates with
  | false => exact ⟨_, _, _, (r.calc_of_not n h).1, fun _ hf => hf, fun _ => ⟨rfl, rfl⟩⟩
  | true =>
    obtain ⟨fs, sd, e, hfs⟩ := r.loadSd_keeps n r.calcY1
    exact ⟨fs, sd, 0, by simp [calcP0, h, e], hfs, fun h => by cases h⟩

/-- `PROC_P1`'s computation writes `SD`, `YO`, `acc` and a record; in slot 0 nothing. -/
theorem calcP1_keeps :
    ∃ fs sd yo acc, r.calcP1 n =
        { n with faults := fs, filt := { n.filt with sd := sd, yo := yo, acc := acc } } ∧
      (∀ f ∈ n.faults, f ∈ fs) ∧
      (r.calculates = false → sd = n.filt.sd ∧ acc = n.filt.acc ∧ yo = n.filt.yo) := by
  cases h : r.calculates with
  | false => exact ⟨_, _, _, _, (r.calc_of_not n h).2.1, fun _ hf => hf, fun _ => ⟨rfl, rfl, rfl⟩⟩
  | true =>
    obtain ⟨fs, sd, e, hfs⟩ := r.loadSd_keeps n (smX0 c r.calcSel)
    exact ⟨fs, sd, _, _, by simp only [calcP1, h, e, if_true]; rfl, hfs, fun h => by cases h⟩

/-- `PROC_P2`'s computation writes `SD`, `acc` and a record; in slot 0 nothing. -/
theorem calcP2_keeps :
    ∃ fs sd acc, r.calcP2 n = { n with faults := fs, filt := { n.filt with sd := sd, acc := acc } } ∧
      (∀ f ∈ n.faults, f ∈ fs) ∧ (r.calculates = false → sd = n.filt.sd ∧ acc = n.filt.acc) := by
  cases h : r.calculates with
  | false => exact ⟨_, _, _, (r.calc_of_not n h).2.2.1, fun _ hf => hf, fun _ => ⟨rfl, rfl⟩⟩
  | true =>
    obtain ⟨fs, sd, e, hfs⟩ := r.loadSd_keeps n (smX1 c r.calcSel)
    exact ⟨fs, sd, _, by simp only [calcP2, h, e, if_true]; rfl, hfs, fun h => by cases h⟩

/-- `PROC_P3`'s computation writes `acc`, the computed channel's output word and delay counter, `clip`
and, with the gate open, its word of `SM`; in slot 0 nothing. -/
theorem calcP3_keeps (hwf : n.sm.wf c.memInit = true) :
    ∃ m acc ob dly clip, r.calcP3 n = { n with
        sm := m, filt := { n.filt with acc := acc, ob := ob, dly := dly }
        outs := { n.outs with clip := clip } } ∧
      (∀ ch : Fin c.nCh, ch ≠ r.calcChan → dly[ch] = n.filt.dly[ch] ∧ ob[ch] = n.filt.ob[ch]) ∧
      (∀ a, (a = r.calcY1 → r.calculates = false ∨ r.gate = false) →
        m.read c.memInit a = n.sm.read c.memInit a) ∧
      (r.calculates = false →
        acc = n.filt.acc ∧ ob = n.filt.ob ∧ dly = n.filt.dly ∧ m = n.sm ∧
        { n.outs with clip := clip } = n.outs) := by
  cases h : r.calculates with
  | false =>
    exact ⟨_, _, _, _, _, (r.calc_of_not n h).2.2.2, fun _ _ => ⟨rfl, rfl⟩, fun _ _ => rfl,
      fun _ => ⟨rfl, rfl, rfl, rfl, rfl⟩⟩
  | true =>
    have hother : ∀ ch : Fin c.nCh, ch ≠ r.calcChan → r.calcChan.val ≠ ch.val :=
      fun ch hne e => hne (Fin.ext e.symm)
    cases hg : r.gate with
    | false =>
      refine ⟨n.sm, _, _, _, _, by simp only [calcP3, h, hg, if_true]; rfl, fun ch hne => ?_,
        fun _ _ => rfl, fun h => by cases h⟩
      exact ⟨Vector.getElem_set_ne _ _ (hother ch hne), Vector.getElem_set_ne _ _ (hother ch hne)⟩
    | true =>
      refine ⟨_, _, _, _, _, by simp only [calcP3, h, hg, if_true]; rfl, fun ch hne => ?_,
        fun a ha => ?_, fun h => by cases h⟩
      · exact ⟨Vector.getElem_set_ne _ _ (hother ch hne), Vector.getElem_set_ne _ _ (hother ch hne)⟩
      · have hne : a ≠ r.calcY1 := fun e => by simpa using ha e
        rw [stWrite_sm, Mem.read_write n.sm hwf, if_neg hne]

/-- Past the last channel nothing is fetched (R205). -/
theorem fetches_last_slot (h : 4 * c.nCh ≤ r.filt.k) : r.fetches = false :=
  decide_eq_false (by unfold slot; omega)

/-! ## The frames of the micro-operations -/

theorem doIdleWait_keeps :
    ∃ st k lat, r.doIdleWait = { r with filt := { r.filt with state := st, k := k, lat := lat } } := by
  cases h : r.filtStart with
  | false => exact ⟨_, _, _, by simp only [doIdleWait, h]; rfl⟩
  | true => exact ⟨_, _, _, by simp only [doIdleWait, h, if_true]; rfl⟩

theorem doLoadSx_keeps :
    ∃ fs st k sx, r.doLoadSx =
        { r with faults := fs, filt := { r.filt with state := st, k := k, sx := sx } } ∧
      ∀ f ∈ r.faults, f ∈ fs := by
  obtain ⟨fs, e, hfs⟩ := r.filtBusyStart_keeps
  cases h : r.reading with
  | false => exact ⟨fs, _, _, _, by simp only [doLoadSx, e, h]; rfl, hfs⟩
  | true =>
    exact ⟨_, _, _, _, by simp only [doLoadSx, e, h, if_true]; rfl,
      fun f hf => mem_addFault.2 (.inl (hfs f hf))⟩

theorem doLoadWr_keeps :
    ∃ fs st k, r.doLoadWr = { r with
        faults := fs, filt := { r.filt with state := st, k := k }
        sm := r.sm.write c.memInit (smX0 c r.walkChan.val) r.filt.sx } ∧
      ∀ f ∈ r.faults, f ∈ fs := by
  obtain ⟨fs, e, hfs⟩ := r.filtBusyStart_keeps
  exact ⟨fs, _, _, by simp only [doLoadWr, e]; rfl, hfs⟩

/-- What the fetch of phases 0, 1, 2 writes with a busy start's record before it. -/
theorem fetchBusy_keeps (word : Fin 4) :
    ∃ fs cq, r.fetch r.filtBusyStart word =
        { r with faults := fs, filt := { r.filt with cq := cq } } ∧
      (∀ f ∈ r.faults, f ∈ fs) ∧ (r.fetches = false → cq = r.filt.cq) := by
  obtain ⟨fs, e, hfs⟩ := r.filtBusyStart_keeps
  obtain ⟨fs', cq, e', hfs', hcq⟩ := r.fetch_keeps r.filtBusyStart word
  rw [e] at hfs' hcq
  exact ⟨fs', cq, by rw [e', e], fun f hf => hfs' f (hfs f hf), hcq⟩

/-- `PROC_P0` writes `CQ`, `SD` and `acc`. -/
theorem doProcP0_keeps :
    ∃ fs st k cq sd acc, r.doProcP0 = { r with
        faults := fs
        filt := { r.filt with state := st, k := k, cq := cq, sd := sd, acc := acc } } ∧
      (∀ f ∈ r.faults, f ∈ fs) ∧ (r.fetches = false → cq = r.filt.cq) ∧
      (r.calculates = false → sd = r.filt.sd ∧ acc = r.filt.acc) := by
  obtain ⟨fs, cq, e, hfs, hcq⟩ := r.fetchBusy_keeps 0
  obtain ⟨fs', sd, acc, e', hfs', hcalc⟩ := r.calcP0_keeps (r.fetch r.filtBusyStart 0)
  rw [e] at hfs' hcalc
  exact ⟨fs', _, _, cq, sd, acc, by rw [doProcP0, e', e]; rfl, fun f hf => hfs' f (hfs f hf), hcq, hcalc⟩

/-- `PROC_P1` writes `CQ`, `SD`, `YO` and `acc`. -/
theorem doProcP1_keeps :
    ∃ fs st k cq sd yo acc, r.doProcP1 = { r with
        faults := fs
        filt := { r.filt with state := st, k := k, cq := cq, sd := sd, yo := yo, acc := acc } } ∧
      (∀ f ∈ r.faults, f ∈ fs) ∧ (r.fetches = false → cq = r.filt.cq) ∧
      (r.calculates = false → sd = r.filt.sd ∧ acc = r.filt.acc ∧ yo = r.filt.yo) := by
  obtain ⟨fs, cq, e, hfs, hcq⟩ := r.fetchBusy_keeps 1
  obtain ⟨fs', sd, yo, acc, e', hfs', hcalc⟩ := r.calcP1_keeps (r.fetch r.filtBusyStart 1)
  rw [e] at hfs' hcalc
  exact ⟨fs', _, _, cq, sd, yo, acc, by rw [doProcP1, e', e]; rfl, fun f hf => hfs' f (hfs f hf), hcq,
    hcalc⟩

/-- `PROC_P2` writes `CQ`, `SD` and `acc`. -/
theorem doProcP2_keeps :
    ∃ fs st k cq sd acc, r.doProcP2 = { r with
        faults := fs
        filt := { r.filt with state := st, k := k, cq := cq, sd := sd, acc := acc } } ∧
      (∀ f ∈ r.faults, f ∈ fs) ∧ (r.fetches = false → cq = r.filt.cq) ∧
      (r.calculates = false → sd = r.filt.sd ∧ acc = r.filt.acc) := by
  obtain ⟨fs, cq, e, hfs, hcq⟩ := r.fetchBusy_keeps 2
  obtain ⟨fs', sd, acc, e', hfs', hcalc⟩ := r.calcP2_keeps (r.fetch r.filtBusyStart 2)
  rw [e] at hfs' hcalc
  exact ⟨fs', _, _, cq, sd, acc, by rw [doProcP2, e', e]; rfl, fun f hf => hfs' f (hfs f hf), hcq, hcalc⟩

/-- `PROC_P3` writes `CX`, `acc`, the computed channel's entries, `clip` and its word of `SM`. -/
theorem doProcP3_keeps (hwf : r.sm.wf c.memInit = true) :
    ∃ fs st k cx m acc ob dly clip, r.doProcP3 = { r with
        faults := fs, sm := m, outs := { r.outs with clip := clip }
        filt := { r.filt with state := st, k := k, cx := cx, acc := acc, ob := ob, dly := dly } } ∧
      (∀ f ∈ r.faults, f ∈ fs) ∧ (r.fetches = false → cx = r.filt.cx) ∧
      (∀ ch : Fin c.nCh, ch ≠ r.calcChan → dly[ch] = r.filt.dly[ch] ∧ ob[ch] = r.filt.ob[ch]) ∧
      (∀ a, (a = r.calcY1 → r.calculates = false ∨ r.gate = false) →
        m.read c.memInit a = r.sm.read c.memInit a) ∧
      (r.calculates = false →
        acc = r.filt.acc ∧ ob = r.filt.ob ∧ dly = r.filt.dly ∧ m = r.sm ∧
        { r.outs with clip := clip } = r.outs) := by
  obtain ⟨fs, e, hfs⟩ := r.filtBusyStart_keeps
  obtain ⟨fs', cx, e', hfs', hcx⟩ := r.fetchLast_keeps r.filtBusyStart
  rw [e] at hfs' hcx
  obtain ⟨m, acc, ob, dly, clip, e'', hother, hm, hcalc⟩ :=
    r.calcP3_keeps (r.fetchLast r.filtBusyStart) (by rw [e', e]; exact hwf)
  rw [e', e] at hother hm hcalc
  exact ⟨fs', _, _, cx, m, acc, ob, dly, clip, by rw [doProcP3, e'', e', e]; rfl,
    fun f hf => hfs' f (hfs f hf), hcx, hother, hm, hcalc⟩

theorem doShiftRd_keeps :
    ∃ fs st k sd, r.doShiftRd =
        { r with faults := fs, filt := { r.filt with state := st, k := k, sd := sd } } ∧
      ∀ f ∈ r.faults, f ∈ fs := by
  obtain ⟨fs, e, hfs⟩ := r.filtBusyStart_keeps
  obtain ⟨fs', sd, e', hfs'⟩ := r.loadSd_keeps r.filtBusyStart (smX0 c r.walkChan.val)
  rw [e] at hfs'
  exact ⟨fs', _, _, sd, by rw [doShiftRd, e', e]; rfl, fun f hf => hfs' f (hfs f hf)⟩

theorem doShiftWr_keeps :
    ∃ fs st k, r.doShiftWr = { r with
        faults := fs, filt := { r.filt with state := st, k := k }
        sm := r.sm.write c.memInit (smX1 c r.walkChan.val) r.filt.sd } ∧
      ∀ f ∈ r.faults, f ∈ fs := by
  obtain ⟨fs, e, hfs⟩ := r.filtBusyStart_keeps
  exact ⟨fs, _, _, by rw [doShiftWr, e]; rfl, hfs⟩

end Sys2Proof.Machine.Regs

namespace Sys2Proof.Proofs

open Sys2Proof.Machine Sys2Proof.Laws

/-- Settles O35, operation by operation: what each writes is its frame. -/
theorem engineFrame : Obligations.EngineFrame := by
  intro c r t i hi hex hwf
  obtain rfl := eq_act_of_exec hex
  have hread := Mem.read_write r.sm hwf
  have hslot0 := r.calculates_slot_zero
  have hslotN := r.fetches_last_slot
  simp only [List.mem_cons, List.not_mem_nil, or_false] at hi
  rcases hi with rfl | rfl | rfl | rfl | rfl | rfl | rfl | rfl | rfl
  · obtain ⟨st, k, lat, e⟩ := r.doIdleWait_keeps
    simp [act, e, Regs.stRead]
  · obtain ⟨fs, st, k, sx, e, hfs⟩ := r.doLoadSx_keeps
    simpa [act, e, Regs.stRead] using hfs
  · obtain ⟨fs, st, k, e, hfs⟩ := r.doLoadWr_keeps
    simpa +contextual [act, e, Regs.stRead, hread] using hfs
  · obtain ⟨fs, st, k, cq, sd, acc, e, hfs, hcq, hcalc⟩ := r.doProcP0_keeps
    simpa [act, e, Regs.stRead] using ⟨hfs, hcalc ∘ hslot0, hcq ∘ hslotN⟩
  · obtain ⟨fs, st, k, cq, sd, yo, acc, e, hfs, hcq, hcalc⟩ := r.doProcP1_keeps
    simpa [act, e, Regs.stRead] using ⟨hfs, hcalc ∘ hslot0, hcq ∘ hslotN⟩
  · obtain ⟨fs, st, k, cq, sd, acc, e, hfs, hcq, hcalc⟩ := r.doProcP2_keeps
    simpa [act, e, Regs.stRead] using ⟨hfs, hcalc ∘ hslot0, hcq ∘ hslotN⟩
  · obtain ⟨fs, st, k, cx, m, acc, ob, dly, clip, e, hfs, hcx, hother, hm, hcalc⟩ := r.doProcP3_keeps hwf
    simpa [act, e, Regs.stRead] using ⟨hfs, hother, hm, hcalc ∘ hslot0, hcx ∘ hslotN⟩
  · obtain ⟨fs, st, k, sd, e, hfs⟩ := r.doShiftRd_keeps
    simpa [act, e, Regs.stRead] using hfs
  · obtain ⟨fs, st, k, e, hfs⟩ := r.doShiftWr_keeps
    simpa +contextual [act, e, Regs.stRead, hread] using hfs

end Sys2Proof.Proofs
end

section
/-! PROOFS. SHIFT ages a channel's sample in two ticks (20_memory.md rule R98, 41_filter_engine.md rule
R223). -/

namespace Sys2Proof.Machine.Regs

variable {c : Config} {r : Regs c}

/-! ## The two ticks of a channel in SHIFT (R222) -/

theorem engineOp_shift_even (hs : r.filt.state = .shift) (hk : r.filt.k % 2 = 0) :
    r.engineOp = .shiftRd ∧ r.engineWritesSm = false := by
  simp [engineOp, engineWritesSm, hs, hk]

theorem engineOp_shift_odd (hs : r.filt.state = .shift) (hk : r.filt.k % 2 = 1) :
    r.engineOp = .shiftWr ∧ r.engineWritesSm = true := by
  simp [engineOp, engineWritesSm, hs, hk]

/-- `SHIFT_RD` of channel `i` reads a defined `x0` into `SD` and counts. -/
theorem doShiftRd_filt {i : Fin c.nCh} {v : BitVec c.S} (hk : r.filt.k = 2 * i.val)
    (hx0 : r.stRead (smX0 c i.val) = some v) :
    r.doShiftRd.filt = { r.filt with sd := v, k := r.filt.k + 1 } := by
  have hlast : r.filt.k ≠ 2 * c.nCh - 1 := by have := i.isLt; omega
  have hsd : r.loadSd r.filtBusyStart (smX0 c i.val) =
      { r.filtBusyStart with filt := { r.filtBusyStart.filt with sd := v } } := by
    simp only [loadSd, hx0]
  rw [doShiftRd, walkShift, walk_count _ _ hlast, r.walkChan_of (p := 0) i (by decide) hk, hsd,
    filtBusyStart_eq]

/-- `SHIFT_WR` of channel `i` stores `SD` as its `x1`. -/
theorem doShiftWr_sm {i : Fin c.nCh} (hk : r.filt.k = 2 * i.val + 1) :
    r.doShiftWr.sm = r.sm.write c.memInit (smX1 c i.val) r.filt.sd := by
  rw [doShiftWr, walkShift, walk_sm, stWrite_sm, r.walkChan_of (p := 1) i (by decide) hk,
    filtBusyStart_eq]

theorem smX0_ne_smX1 (i : Fin c.nCh) : smX0 c i.val ≠ smX1 c i.val := fun h => by
  have := smAddr_inj (w := .x0 i.val) (w' := .x1 i.val) (decide_eq_true i.isLt)
    (decide_eq_true i.isLt) h
  cases this

end Sys2Proof.Machine.Regs

namespace Sys2Proof.Laws

open Sys2Proof.Machine

variable {c : Config} {r : Regs c}

/-! ## Ticks with nothing scripted -/

/-- The start of a tick with nothing scripted: `enable` holds its level, the host does nothing. -/
def quietStart (r : Regs c) : Regs c := r.present (TickInput.quiet c r.inp.enable) []

theorem step_quiet (hv : c.valid = true) (hf : r.faults = []) (hs : r.script = []) :
    step ⟨c, r⟩ = .next ⟨c, tickAct (quietStart r)⟩ :=
  step_tick hv hf (nextEvent_of_nil hs)

/-- A step without a script that ends without a fault recorded was not a halted one. -/
theorem faults_eq_nil_of_step {t : Regs c} (hs : r.script = []) (hstep : step ⟨c, r⟩ = .next ⟨c, t⟩)
    (ht : t.faults = []) : r.faults = [] := by
  by_contra hf
  rw [step_halted (valid_of_step hstep) hf (nextEvent_of_nil hs)] at hstep
  cases hstep
  exact hf ht

/-- A run of `k + 1` steps is a step and a run of `k`. -/
theorem run_succ {k : Nat} {s t : State} : Sys2Proof.core.run (k + 1) s = .next t ↔
    ∃ u, step s = .next u ∧ Sys2Proof.core.run k u = .next t := by
  simp only [Host.Core.run, Sys2Proof.core]
  cases step s <;> simp

/-- Two ticks are two steps. -/
theorem run_two {s t : State} (h : Sys2Proof.core.run 2 s = .next t) :
    ∃ u, step s = .next u ∧ step u = .next t := by
  obtain ⟨u, hu, h⟩ := run_succ.1 h
  obtain ⟨w, hw, h⟩ := run_succ.1 h
  cases h
  exact ⟨u, hu, hw⟩

/-- A quiet tick of `SHIFT_RD` reads `x0` into `SD` and leaves `SM`. -/
theorem tickAct_shiftRd {i : Fin c.nCh} {v : BitVec c.S} (hs : r.filt.state = .shift)
    (hk : r.filt.k = 2 * i.val) (hx0 : r.stRead (smX0 c i.val) = some v) :
    (tickAct (quietStart r)).filt = { r.filt with sd := v, k := r.filt.k + 1 } ∧
      (tickAct (quietStart r)).sm = r.sm := by
  obtain ⟨hop, hwrites⟩ := Regs.engineOp_shift_even (r := quietStart r) hs (show r.filt.k % 2 = 0 by omega)
  rw [tickAct_filt, tickAct_sm, hop, hwrites]
  exact ⟨Regs.doShiftRd_filt (r := quietStart r) hk hx0, rfl⟩

/-- A quiet tick of `SHIFT_WR` stores `SD` as `x1`. -/
theorem tickAct_shiftWr {i : Fin c.nCh} (hs : r.filt.state = .shift) (hk : r.filt.k = 2 * i.val + 1) :
    (tickAct (quietStart r)).sm = r.sm.write c.memInit (smX1 c i.val) r.filt.sd := by
  obtain ⟨hop, hwrites⟩ := Regs.engineOp_shift_odd (r := quietStart r) hs (show r.filt.k % 2 = 1 by omega)
  rw [tickAct_sm, hop, hwrites]
  exact Regs.doShiftWr_sm (r := quietStart r) hk

end Sys2Proof.Laws

namespace Sys2Proof.Proofs

open Sys2Proof.Machine Sys2Proof.Machine.Regs Sys2Proof.Laws

/-- Settles O33: the first tick reads `x0`, the second writes it to `x1`, another address. -/
theorem shiftAgesASampleInTwoTicks : Obligations.ShiftAgesASampleInTwoTicks := by
  intro c r t i v hs hk hf hscript hwf hx0 hrun hft
  rw [← smX0_eq i.isLt] at hx0 ⊢
  rw [← smX1_eq i.isLt]
  obtain ⟨u, hu, ht⟩ := run_two hrun
  have hv := valid_of_step hu
  rw [step_quiet hv hf hscript] at hu
  cases hu
  rw [step_quiet hv (faults_eq_nil_of_step rfl ht hft) rfl] at ht
  cases ht
  obtain ⟨hfilt, hsm⟩ := tickAct_shiftRd hs hk hx0
  have hwrite : (tickAct (quietStart (tickAct (quietStart r)))).sm =
      r.sm.write c.memInit (smX1 c i.val) v := by
    rw [tickAct_shiftWr (i := i) (by rw [hfilt]; exact hs) (by rw [hfilt, hk]), hfilt, hsm]
  have hread : ∀ a, (tickAct (quietStart (tickAct (quietStart r)))).stRead a =
      if a = smX1 c i.val then some v else r.stRead a := fun a => by
    rw [stRead, hwrite, Mem.read_write r.sm hwf]
    rfl
  rw [hread, hread, if_pos rfl, if_neg (smX0_ne_smX1 i)]
  exact ⟨rfl, hx0⟩

end Sys2Proof.Proofs
end

section
/-! PROOFS. The encodings (30_encoding.md): a selector's four fields and the selector determine each other
(rules R117, R118), so decoder and encoder agree on the host operations in both directions, and on the
patterns of R123 and R126 by their tables. -/

namespace Sys2Proof

open Sys2Proof.Machine

variable {c : Config} {ch prof : Nat} {sel : BitVec c.selW} {v : Int}

/-! ## A selector and its fields (R117) -/

theorem toNat_ofNat_of_chanOk (h : c.chanOk ch = true) : (BitVec.ofNat c.C ch).toNat = ch := by
  rw [BitVec.toNat_ofNat, Nat.mod_eq_of_lt (of_decide_eq_true h)]

theorem toNat_ofNat_of_profOk (h : c.profOk prof = true) : (BitVec.ofNat c.P prof).toNat = prof := by
  rw [BitVec.toNat_ofNat, Nat.mod_eq_of_lt (of_decide_eq_true h)]

theorem chanOk_toNat (b : BitVec c.C) : c.chanOk b.toNat = true := decide_eq_true b.isLt

theorem operandsOk_toNat (b : BitVec c.C) (p : BitVec c.P) :
    (c.chanOk b.toNat && c.profOk p.toNat) = true :=
  Bool.and_eq_true_iff.2 ⟨chanOk_toNat b, decide_eq_true p.isLt⟩

/-- The channel and the profile read back from a selector whose operands are in range. -/
theorem operands_selector (h : (c.chanOk ch && c.profOk prof) = true) (op kind : BitVec 3) :
    (selCh c (selector c op ch prof kind)).toNat = ch ∧
      (selProf c (selector c op ch prof kind)).toNat = prof := by
  obtain ⟨hc, hp⟩ := Bool.and_eq_true_iff.1 h
  rw [selCh_selector, selProf_selector]
  exact ⟨toNat_ofNat_of_chanOk hc, toNat_ofNat_of_profOk hp⟩

/-- A bit of a field is the bit of the word at the field's place. -/
theorem getLsbD_field {w start len k j : Nat} (x : BitVec w) (hk : k < len) (hj : start + k = j) :
    (x.extractLsb' start len).getLsbD k = x.getLsbD j := by
  rw [BitVec.getLsbD_extractLsb', decide_eq_true hk, Bool.true_and, hj]

/-- The four fields of a selector cover it. -/
theorem selector_of_fields {op kind : BitVec 3} (hop : selOp c sel = op) (hkind : selKind c sel = kind) :
    selector c op (selCh c sel).toNat (selProf c sel).toNat kind = sel := by
  subst hop hkind
  apply BitVec.eq_of_getLsbD_eq
  intro j hj
  have hw : j < 3 + c.C + c.P + 3 := hj
  simp only [selector, BitVec.ofNat_toNat, BitVec.setWidth_eq, BitVec.getLsbD_append]
  split_ifs with hkind hprof hch
  · exact getLsbD_field sel hkind (by omega)
  · exact getLsbD_field sel hprof (by omega)
  · exact getLsbD_field sel hch (by omega)
  · exact getLsbD_field sel (by omega) (by omega)

/-- The selector of an operation on a state word: x0 and x1 stand with profile 0 (R117). -/
def refSelector (c : Config) (op : BitVec 3) : StateRef → BitVec c.selW
  | .y1 ch prof => selector c op ch prof 0
  | .x0 ch => selector c op ch 0 1
  | .x1 ch => selector c op ch 0 2

@[simp] theorem selOp_refSelector (op : BitVec 3) (w : StateRef) :
    selOp c (refSelector c op w) = op := by
  cases w <;> exact selOp_selector ..

/-- As a number, a selector whose operands are in range has its four parts at their places. -/
theorem toNat_selector (hc : ch < c.nCh) (hp : prof < 2 ^ c.P) (op kind : BitVec 3) :
    (selector c op ch prof kind).toNat = selectorNumber c op.toNat ch prof kind.toNat := by
  simp only [selector, selectorNumber, BitVec.toNat_append, BitVec.toNat_ofNat, Nat.mod_eq_of_lt hc,
    Nat.mod_eq_of_lt hp, shiftLeft_or hc, shiftLeft_or hp, shiftLeft_or kind.isLt]
  ring

/-! ## What the encoder and the well-formedness say of each kind of host operation -/

theorem encode_setCoeff (f : CoeffField) :
    encode c (.setCoeff f ch prof v) = .hostop (selector c 0 ch prof (c.idx f)) v := by
  cases f <;> rfl

theorem encode_getCoeff (f : CoeffField) :
    encode c (.getCoeff f ch prof) = .hostop (selector c 1 ch prof (c.idx f)) 0 := by
  cases f <;> rfl

theorem encode_setState (w : StateRef) :
    encode c (.setState w v) = .hostop (refSelector c 2 w) v := by
  cases w <;> rfl

theorem encode_getState (w : StateRef) :
    encode c (.getState w) = .hostop (refSelector c 3 w) 0 := by
  cases w <;> rfl

theorem wellFormed_setCoeff (f : CoeffField) :
    (Instr.setCoeff f ch prof v).wellFormed c = (c.chanOk ch && c.profOk prof) := by
  cases f <;> rfl

theorem wellFormed_getCoeff (f : CoeffField) :
    (Instr.getCoeff f ch prof).wellFormed c = (c.chanOk ch && c.profOk prof) := by
  cases f <;> rfl

theorem wellFormed_setState (w : StateRef) : (Instr.setState w v).wellFormed c = refOk c w := by
  cases w <;> rfl

theorem wellFormed_getState (w : StateRef) : (Instr.getState w).wellFormed c = refOk c w := by
  cases w <;> rfl

/-! ## The decoder reads what the encoder writes -/

theorem decode_setCoeff (h9 : c.holds .cf9 = true) (h : (c.chanOk ch && c.profOk prof) = true)
    (f : CoeffField) :
    decode c (.hostop (selector c 0 ch prof (c.idx f)) v) = .ok (.setCoeff f ch prof v) := by
  obtain ⟨hch, hprof⟩ := operands_selector h 0 (c.idx f)
  simp only [decode, decodeHostop, selOp_selector, selKind_selector, fieldAt_idx c h9, hch, hprof,
    if_true]

theorem decode_getCoeff (h9 : c.holds .cf9 = true) (h : (c.chanOk ch && c.profOk prof) = true)
    (f : CoeffField) (v : Int) :
    decode c (.hostop (selector c 1 ch prof (c.idx f)) v) = .ok (.getCoeff f ch prof) := by
  obtain ⟨hch, hprof⟩ := operands_selector h 1 (c.idx f)
  simp only [decode, decodeHostop, selOp_selector, selKind_selector, fieldAt_idx c h9, hch, hprof,
    BitVec.reduceEq, if_false, if_true]

theorem decodeStateRef_refSelector {w : StateRef} (h : refOk c w = true) (op : BitVec 3) :
    decodeStateRef c (refSelector c op w) = .ok w := by
  cases w with
  | y1 ch prof =>
    obtain ⟨hch, hprof⟩ := operands_selector h op 0
    simp only [decodeStateRef, refSelector, selKind_selector, hch, hprof, if_true]
  | x0 ch | x1 ch => simp [decodeStateRef, refSelector, toNat_ofNat_of_chanOk h]

theorem decode_setState {w : StateRef} (h : refOk c w = true) :
    decode c (.hostop (refSelector c 2 w) v) = .ok (.setState w v) := by
  simp [decode, decodeHostop, decodeStateRef_refSelector h]

theorem decode_getState {w : StateRef} (h : refOk c w = true) (v : Int) :
    decode c (.hostop (refSelector c 3 w) v) = .ok (.getState w) := by
  simp [decode, decodeHostop, decodeStateRef_refSelector h]

theorem decode_setCtrl (h : (c.chanOk ch && c.profOk prof) = true) (enOut enIir : Bool) (v : Int) :
    decode c (.hostop (selector c 4 ch prof (ctrlKind enOut enIir)) v) =
      .ok (.setCtrl ch prof enOut enIir) := by
  obtain ⟨hch, hprof⟩ := operands_selector h 4 (ctrlKind enOut enIir)
  obtain ⟨hbit2, hbit1, hbit0⟩ := ctrlKind_bits enOut enIir
  simp only [decode, decodeHostop, selOp_selector, selKind_selector, hch, hprof, hbit2, hbit1, hbit0,
    BitVec.reduceEq, Bool.false_eq_true, if_false, if_true]

theorem decode_encode {i : Instr} (h9 : c.holds .cf9 = true) (h : i.wellFormed c = true) :
    decode c (encode c i) = .ok i := by
  cases i with
  | setCoeffFtw1 | setCoeffB1 | setCoeffPow | setCoeffCfg | setCoeffOffset | setCoeffA1
  | setCoeffFtw0 | setCoeffB0 => exact decode_setCoeff h9 h _
  | getCoeffFtw1 | getCoeffB1 | getCoeffPow | getCoeffCfg | getCoeffOffset | getCoeffA1
  | getCoeffFtw0 | getCoeffB0 => exact decode_getCoeff h9 h _ 0
  | setStateY1 ch prof => exact decode_setState (w := .y1 ch prof) h
  | setStateX0 ch => exact decode_setState (w := .x0 ch) h
  | setStateX1 ch => exact decode_setState (w := .x1 ch) h
  | getStateY1 ch prof => exact decode_getState (w := .y1 ch prof) h 0
  | getStateX0 ch => exact decode_getState (w := .x0 ch) h 0
  | getStateX1 ch => exact decode_getState (w := .x1 ch) h 0
  | setCtrl ch prof enOut enIir => exact decode_setCtrl h enOut enIir 0
  | idleWait | loadSx | loadWr | procP0 | procP1 | procP2 | procP3 | shiftRd | shiftWr
  | acqIdle | acqCnvh | acqConv | acqRead | acqRtt | outStart | outBusy => rfl

/-! ## The encoder writes what the decoder read -/

theorem idx_of_fieldAt {k : BitVec 3} {f : CoeffField} (h : c.fieldAt k = some f) : c.idx f = k :=
  beq_iff_eq.1 (List.find?_some (p := fun f => c.idx f == k) h)

/-- A `kind` without bit 2 is that of the two enable bits it holds (R117). -/
theorem ctrlKind_of_bits : ∀ k : BitVec 3, k.getLsbD 2 = false →
    ctrlKind (k.getLsbD 1) (k.getLsbD 0) = k := by
  decide

theorem refSelector_of_decodeStateRef {op : BitVec 3} {w : StateRef} (hop : selOp c sel = op)
    (h : decodeStateRef c sel = .ok w) : refOk c w = true ∧ refSelector c op w = sel := by
  simp only [decodeStateRef] at h
  split_ifs at h with hk hk hp hk hp <;> cases h
  · exact ⟨operandsOk_toNat _ _, selector_of_fields hop hk⟩
  · exact ⟨chanOk_toNat _, (congrArg (selector c op _ · _) hp.symm).trans (selector_of_fields hop hk)⟩
  · exact ⟨chanOk_toNat _, (congrArg (selector c op _ · _) hp.symm).trans (selector_of_fields hop hk)⟩

/-- A selector that decodes names operands in range and is the selector the encoder gives it. -/
theorem encode_of_decodeHostop {i : Instr} (h : decodeHostop c sel v = .ok i) :
    i.wellFormed c = true ∧ ∃ v', encode c i = .hostop sel v' := by
  simp only [decodeHostop] at h
  split_ifs at h with hop hop hop hop hop hbit
  · split at h <;> cases h
    next f hf =>
      exact ⟨(wellFormed_setCoeff f).trans (operandsOk_toNat _ _), v,
        by rw [encode_setCoeff, selector_of_fields hop (idx_of_fieldAt hf).symm]⟩
  · split at h <;> cases h
    next f hf =>
      exact ⟨(wellFormed_getCoeff f).trans (operandsOk_toNat _ _), 0,
        by rw [encode_getCoeff, selector_of_fields hop (idx_of_fieldAt hf).symm]⟩
  · split at h <;> cases h
    next w hw =>
      obtain ⟨hok, hsel⟩ := refSelector_of_decodeStateRef hop hw
      exact ⟨(wellFormed_setState w).trans hok, v, by rw [encode_setState, hsel]⟩
  · split at h <;> cases h
    next w hw =>
      obtain ⟨hok, hsel⟩ := refSelector_of_decodeStateRef hop hw
      exact ⟨(wellFormed_getState w).trans hok, 0, by rw [encode_getState, hsel]⟩
  · cases h
    have hkind := ctrlKind_of_bits _ (Bool.eq_false_iff.2 hbit)
    exact ⟨operandsOk_toNat _ _, 0, by rw [encode, selector_of_fields hop hkind.symm]⟩

/-! ## The coefficient address in a selector (R82, R117) -/

/-- Above `kind[0]` a selector holds its `op` and below that the coefficient address. -/
theorem toNat_selector_div_two (hc : ch < c.nCh) (hp : prof < 2 ^ c.P) (op kind : BitVec 3) :
    (selector c op ch prof kind).toNat / 2 =
      op.toNat * 2 ^ (c.C + c.P + 2) + cmAddr c ch prof (wordOf kind) := by
  have heven : selectorNumber c op.toNat ch prof kind.toNat =
      2 * (op.toNat * 2 ^ (c.C + c.P + 2) + ch * 2 ^ (c.P + 2) + prof * 4) + kind.toNat := by
    unfold selectorNumber
    ring
  rw [toNat_selector hc hp, heven, cmAddr_eq hp (wordOf_lt kind), wordOf, Nat.mul_add_div two_pos]
  ring

theorem extractLsb'_selector_cmAddr (hc : ch < c.nCh) (hp : prof < 2 ^ c.P) (op kind : BitVec 3) :
    (selector c op ch prof kind).extractLsb' 1 (c.C + c.P + 2) =
      BitVec.ofNat (c.C + c.P + 2) (cmAddr c ch prof (wordOf kind)) := by
  apply BitVec.eq_of_toNat_eq
  rw [BitVec.extractLsb'_toNat, BitVec.toNat_ofNat, Nat.shiftRight_one, toNat_selector_div_two hc hp,
    Nat.mul_add_mod_self_right]

/-- Bit 0 of a selector is that of its `kind`: the half of the word (R82). -/
theorem getLsbD_zero_selector (op kind : BitVec 3) :
    (selector c op ch prof kind).getLsbD 0 = isHigh kind := by
  rw [selector, BitVec.getLsbD_append, if_pos (by decide), isHigh]

end Sys2Proof

namespace Sys2Proof.Proofs

open Sys2Proof.Machine Sys2Proof.Laws

/-- Settles O57, by the instruction's kind: the patterns by their tables, a host operation by the fields
of its selector. -/
theorem decodeOfEncodeIsTheInstruction : Obligations.DecodeOfEncodeIsTheInstruction :=
  fun _ _ h9 h => decode_encode h9 h

/-- Settles O58, by the selector's `op`: its fields are those of the instruction's selector. -/
theorem decodedSelectorIsTheEncodedOne : Obligations.DecodedSelectorIsTheEncodedOne :=
  fun _ _ _ _ h => encode_of_decodeHostop h

/-- Settles O56, with the selector read as a number. -/
theorem selectorHoldsTheCoefficientAddress : Obligations.SelectorHoldsTheCoefficientAddress :=
  fun _ _ ch p op => ⟨extractLsb'_selector_cmAddr ch.isLt p.isLt op _, getLsbD_zero_selector op _⟩

/-- Settles O9, stage by stage. -/
theorem everyStagePatternDecodes : Obligations.EveryStagePatternDecodes :=
  fun _ r => ⟨decode_acqCode r, decode_engineCode r, decode_outCode r⟩

end Sys2Proof.Proofs
end

section
/-! PROOFS. The acquisition's two ends (40_acquisition.md rules R152, R156, R158): a start in IDLE, and
the samples that arrive on the way back to it. -/

namespace Sys2Proof.Machine.Regs

variable {c : Config} {r : Regs c}

theorem doAcqIdle_of_start (hs : r.acqStart = true) :
    r.doAcqIdle = { r with acq := { r.acq with state := .cnvh, cnt := c.acq.tCnvh - 1 } } := by
  rw [doAcqIdle, if_pos hs]

theorem doAcqIdle_of_not (hs : r.acqStart = false) : r.doAcqIdle = r := by
  simp [doAcqIdle, hs]

theorem doAcqRtt_of_ne_zero (hs : r.acqStart = false) (hc : r.acq.cnt ≠ 0) :
    r.doAcqRtt = { r with acq := { r.acq with cnt := r.acq.cnt - 1 } } := by
  rw [doAcqRtt, acqBusyStart_of_not _ hs, if_neg hc]

theorem doAcqRtt_of_zero (hs : r.acqStart = false) (hc : r.acq.cnt = 0) :
    r.doAcqRtt = { r with
      acq := { r.acq with state := .idle, data := Vector.ofFn fun ch => r.sampleOf ch }
      draws := r.draws + 1 } := by
  rw [doAcqRtt, acqBusyStart_of_not _ hs, if_pos hc]

theorem sampleOf_of_some {ch : Fin c.nCh} {v : BitVec c.W} (h : r.inp.samples[ch] = some v) :
    r.sampleOf ch = v := by
  rw [sampleOf, h]

theorem sampleOf_of_none {ch : Fin c.nCh} (h : r.inp.samples[ch] = none) :
    r.sampleOf ch = Config.freeSample c.W r.draws ch.val := by
  rw [sampleOf, h]

end Sys2Proof.Machine.Regs

namespace Sys2Proof.Proofs

open Sys2Proof.Machine Sys2Proof.Machine.Regs Sys2Proof.Laws

/-- Settles O16: the outputs by what each says of `acq_state`, then the tick with and without a start. -/
theorem acqIdleAcceptsAStart : Obligations.AcqIdleAcceptsAStart := by
  intro c r
  refine ⟨fun hs => ?_, fun hen hcnt => ?_, fun hns => ?_⟩
  · simp [Bool.eq_false_iff, hs]
  · rw [exec_eq, act, doAcqIdle_of_start (r.acqStart_iff.2 ⟨hen, hcnt⟩)]
  · rw [exec_eq, act, doAcqIdle_of_not (Bool.eq_false_iff.2 (mt r.acqStart_iff.1 hns))]

/-- Settles O18: the countdown, and on 0 the samples, each driven or drawn. -/
theorem acqRttDeliversTheSamples : Obligations.AcqRttDeliversTheSamples := by
  intro c r hns
  have hs : r.acqStart = false := Bool.eq_false_iff.2 (mt r.acqStart_iff.1 hns)
  refine ⟨fun hc => ?_, fun hc => ⟨Vector.ofFn fun ch => r.sampleOf ch, ?_, fun ch => ?_⟩⟩
  · rw [exec_eq, act, doAcqRtt_of_ne_zero hs hc]
  · rw [exec_eq, act, doAcqRtt_of_zero hs hc]
  · have hdata : (Vector.ofFn fun ch => r.sampleOf ch)[ch] = r.sampleOf ch := by simp
    rw [hdata]
    exact ⟨fun _ => sampleOf_of_some, sampleOf_of_none⟩

end Sys2Proof.Proofs
end

section
/-! PROOFS. Runs of ticks: what every tick carries on, a run of ticks carries on up to its first fault
(60_exceptions.md rule R367). -/

namespace Sys2Proof.Laws

open Sys2Proof.Machine

variable {c : Config} {r : Regs c}

/-- An environment of ticks alone gives a tick, with ticks alone after it (`onlyTicks_rest`). -/
theorem nextEvent_of_onlyTicks (h : r.OnlyTicks) : ∃ inp rest, r.nextEvent = (.tick inp, rest) := by
  cases hs : r.script with
  | nil => exact ⟨_, _, nextEvent_of_nil hs⟩
  | cons e rest =>
    obtain ⟨inp, rfl⟩ := h e (hs ▸ List.mem_cons_self)
    exact ⟨inp, rest, nextEvent_of_cons hs⟩

theorem onlyTicks_rest {e : Event c} {rest : List (Event c)} (h : r.OnlyTicks)
    (he : r.nextEvent = (e, rest)) : ∀ e' ∈ rest, ∃ inp, e' = Event.tick inp := by
  cases hs : r.script with
  | nil =>
    rw [nextEvent_of_nil hs] at he
    cases he
    exact fun _ h' => absurd h' List.not_mem_nil
  | cons d ds =>
    rw [nextEvent_of_cons hs] at he
    cases he
    exact fun e' h' => h e' (hs ▸ List.mem_cons_of_mem _ h')

/-- `P k` of the state after `k` ticks, kept by every tick before the `n`-th, holds of every run of
ticks that ends without a fault: a halted tick keeps the fault that halts it. -/
theorem run_ticks {P : Nat → Regs c → Prop} {n : Nat}
    (htick : ∀ k u inp rest, k < n → Inv ⟨c, u⟩ → P k u → P (k + 1) (tickAct (u.present inp rest)))
    (j k : Nat) (r : Regs c) (hn : k + j ≤ n) (hi : Inv ⟨c, r⟩) (honly : r.OnlyTicks)
    (hP : r.faults = [] → P k r) :
    ∃ t : Regs c, Sys2Proof.core.run j ⟨c, r⟩ = .next ⟨c, t⟩ ∧ Inv ⟨c, t⟩ ∧
      (t.faults = [] → P (k + j) t) := by
  induction j generalizing k r with
  | zero => exact ⟨r, rfl, hi, hP⟩
  | succ j ih =>
    obtain ⟨hv, -⟩ := inv_iff.1 hi
    obtain ⟨inp, rest, he⟩ := nextEvent_of_onlyTicks honly
    have hrest := onlyTicks_rest honly he
    obtain ⟨u, hstep, honly', hP'⟩ : ∃ u : Regs c, step ⟨c, r⟩ = .next ⟨c, u⟩ ∧ u.OnlyTicks ∧
        (u.faults = [] → P (k + 1) u) := by
      by_cases hf : r.faults = []
      · exact ⟨_, step_tick hv hf he, hrest, fun _ => htick k r inp rest (by omega) hi (hP hf)⟩
      · exact ⟨_, step_halted hv hf he, hrest, fun h => absurd h hf⟩
    obtain ⟨t, hrun, hit, hPt⟩ := ih (k + 1) u (by omega) (inv_step hi hstep) honly' hP'
    refine ⟨t, run_succ.2 ⟨_, hstep, hrun⟩, hit, ?_⟩
    rwa [show k + (j + 1) = k + 1 + j by omega]

end Sys2Proof.Laws
end

section
/-! PROOFS. An acquisition's timetable (40_acquisition.md rule R157). -/

namespace Sys2Proof.Laws

open Sys2Proof.Machine Sys2Proof.Machine.Regs

variable {c : Config} {r : Regs c}

/-- `k` ticks after the start of an acquisition: under way and `k` ticks in, or done after `T_acq`. -/
def AcqAt (k : Nat) (r : Regs c) : Prop :=
  (r.acq.state ≠ .idle ∧ r.acqPos = k) ∨ (r.acq.state = .idle ∧ k = c.tAcq)

theorem acqAt_one_of_start (hi : Inv ⟨c, r⟩) (hst : r.acqStart = true) : AcqAt 1 (tickAct r) := by
  obtain ⟨hv, -⟩ := inv_iff.1 hi
  exact .inl (acqTick_starts hv (acq_idle_of_acqStart hi hst) hst)

/-- Before the `T_acq`-th tick every tick takes the acquisition one tick on. -/
theorem acqAt_succ {k : Nat} (hk : k < c.tAcq) (hi : Inv ⟨c, r⟩) (h : AcqAt k r) :
    AcqAt (k + 1) (tickAct r) := by
  obtain ⟨hv, -, hc, -⟩ := inv_iff.1 hi
  rcases h with ⟨hs, rfl⟩ | ⟨-, rfl⟩
  · exact (acqTick_advances hv hc hs).elim .inr .inl
  · omega

/-- A busy acquisition reads exactly from `t_cnvh + t_conv` ticks in. -/
theorem reading_iff_acqPos (hv : c.valid = true) (hc : r.CountersOk) (hs : r.acq.state ≠ .idle) :
    r.reading = true ↔ c.acq.tCnvh + c.acq.tConv ≤ r.acqPos := by
  have hcnt := ((countersOk_iff r).1 hc).1 hs
  have hconv := Config.two_le_tConv hv
  rw [reading_iff]
  unfold acqPos
  cases hst : r.acq.state with
  | idle => exact absurd hst hs
  | cnvh | conv | read | rtt =>
    simp only [hst, acqTicks, reduceCtorEq, or_self, or_true, true_or, false_iff, true_iff] at hcnt ⊢
    omega

/-- An acquisition under way is not done and reads in its window alone. -/
theorem outputs_of_acqAt_lt {j : Nat} (hj : j < c.tAcq) (hi : Inv ⟨c, r⟩) (h : AcqAt j r) :
    r.acqDone = false ∧ r.reading = decide (c.acq.tCnvh + c.acq.tConv ≤ j) := by
  obtain ⟨hv, -, hc, -⟩ := inv_iff.1 hi
  rcases h with ⟨hs, rfl⟩ | ⟨-, rfl⟩
  · exact ⟨Bool.eq_false_iff.2 (mt r.acqDone_iff.1 hs),
      Bool.eq_iff_iff.2 ((reading_iff_acqPos hv hc hs).trans decide_eq_true_iff.symm)⟩
  · omega

/-- `T_acq` ticks in it is done. -/
theorem outputs_of_acqAt_tAcq (hi : Inv ⟨c, r⟩) (h : AcqAt c.tAcq r) :
    r.acqDone = true ∧ r.reading = false := by
  obtain ⟨hv, -, hc, -⟩ := inv_iff.1 hi
  rcases h with ⟨hs, hpos⟩ | ⟨hs, -⟩
  · have := acqPos_bounds hv hc hs
    omega
  · exact ⟨r.acqDone_iff.2 hs, Bool.eq_false_iff.2 (by simp [hs])⟩

/-- Every run from an `acq_start` finds the acquisition at its place, up to the first fault. -/
theorem run_acqAt {inp : TickInput c} {rest : List (Event c)} {j : Nat} (hi : Inv ⟨c, r⟩)
    (hf : r.faults = []) (honly : r.OnlyTicks) (he : r.nextEvent = (.tick inp, rest))
    (hst : (r.present inp rest).acqStart = true) (hpos : 0 < j) (hj : j ≤ c.tAcq) :
    ∃ t : Regs c, Sys2Proof.core.run j ⟨c, r⟩ = .next ⟨c, t⟩ ∧ Inv ⟨c, t⟩ ∧
      (t.faults = [] → AcqAt j t) := by
  obtain ⟨hv, -⟩ := inv_iff.1 hi
  obtain ⟨j, rfl⟩ := Nat.exists_eq_add_one.2 hpos
  have hstep := step_tick hv hf he
  have hstart : AcqAt 1 (tickAct (r.present inp rest)) :=
    acqAt_one_of_start (r := r.present inp rest) hi hst
  obtain ⟨t, hrun, hit, hat⟩ := run_ticks (P := AcqAt) (n := c.tAcq)
    (fun _ u inp rest hk hu h => acqAt_succ (r := u.present inp rest) hk hu h)
    j 1 (tickAct (r.present inp rest)) (by omega) (inv_step hi hstep)
    (onlyTicks_rest honly he) fun _ => hstart
  exact ⟨t, run_succ.2 ⟨_, hstep, hrun⟩, hit, Nat.add_comm 1 j ▸ hat⟩

end Sys2Proof.Laws

namespace Sys2Proof.Proofs

open Sys2Proof.Machine Sys2Proof.Laws

/-- Settles O5: the run finds the acquisition at its place, and the place gives the outputs. -/
theorem acquisitionTakesTacqTicks : Obligations.AcquisitionTakesTacqTicks := by
  rintro ⟨c, r⟩ inp rest hi hf honly he hen hcnt
  have hst : (r.present inp rest).acqStart = true := (Regs.acqStart_iff _).2 ⟨hen, hcnt⟩
  have htacq : 0 < c.tAcq := by
    obtain ⟨hcnvh, -⟩ := Config.durations_pos (inv_iff.1 hi).1
    unfold Config.tAcq
    omega
  refine ⟨fun j hpos hj => ?_, ?_⟩
  · obtain ⟨t, hrun, hit, hat⟩ := run_acqAt hi hf honly he hst hpos hj.le
    exact ⟨_, hrun, fun ht => outputs_of_acqAt_lt hj hit (hat ht)⟩
  · obtain ⟨t, hrun, hit, hat⟩ := run_acqAt hi hf honly he hst htacq le_rfl
    exact ⟨_, hrun, fun ht => outputs_of_acqAt_tAcq hit (hat ht)⟩

end Sys2Proof.Proofs
end

section
/-! PROOFS. A sweep's timetable (41_filter_engine.md rule R192). -/

namespace Sys2Proof.Laws

open Sys2Proof.Machine Sys2Proof.Machine.Regs

variable {c : Config} {r : Regs c}

/-- A run whose first tick reaches `P 1` and whose every later tick goes from `P k` to `P (k + 1)` ends
in `P`, up to the first fault. -/
theorem run_ticks_from_start {P : Nat → Regs c → Prop} {n j : Nat}
    (htick : ∀ k u inp rest, k < n → Inv ⟨c, u⟩ → P k u → P (k + 1) (tickAct (u.present inp rest)))
    (hstart : ∀ inp rest, P 1 (tickAct (r.present inp rest)))
    (hi : Inv ⟨c, r⟩) (hf : r.faults = []) (honly : r.OnlyTicks) (hpos : 0 < j) (hj : j ≤ n) :
    ∃ t : Regs c, Sys2Proof.core.run j ⟨c, r⟩ = .next ⟨c, t⟩ ∧ Inv ⟨c, t⟩ ∧
      (t.faults = [] → P j t) := by
  obtain ⟨j, rfl⟩ := Nat.exists_eq_add_one.2 hpos
  obtain ⟨inp, rest, he⟩ := nextEvent_of_onlyTicks honly
  have hstep := step_tick (inv_iff.1 hi).1 hf he
  obtain ⟨t, hrun, hit, hPt⟩ := run_ticks htick j 1 (tickAct (r.present inp rest)) (by omega)
    (inv_step hi hstep) (onlyTicks_rest honly he) fun _ => hstart inp rest
  exact ⟨t, run_succ.2 ⟨_, hstep, hrun⟩, hit, Nat.add_comm 1 j ▸ hPt⟩

/-- `k` ticks after the start of a sweep: under way and `k` ticks in, or over after `8·N_ch + 5`. -/
def SweepAt (k : Nat) (r : Regs c) : Prop :=
  (r.filt.state ≠ .idle ∧ r.filtPos = k) ∨ (r.filt.state = .idle ∧ k = 8 * c.nCh + 5)

/-- A sweep's last tick is the `8·N_ch + 4`-th: the walks of its three states are over (R193). -/
theorem filtPos_of_engineTick_ends (hs : r.filt.state ≠ .idle)
    (hend : (act r.engineOp r).filt.state = .idle) : r.filtPos + 1 = 8 * c.nCh + 5 := by
  have hn : 0 < c.nCh := Nat.two_pow_pos _
  rcases engineTick_cases r with ⟨h, -⟩ | ⟨h, -⟩ | ⟨-, -, h, -⟩ | ⟨-, hlast, h, -⟩
  · exact absurd h hs
  · exact absurd h hs
  · exact absurd (h.symm.trans hend) hs
  · rw [hend] at h
    unfold filtPos Config.tLoad Config.tProc
    cases hst : r.filt.state with
    | idle => exact absurd hst hs
    | load | process => simp [hst, walkNext] at h
    | shift => simp only [hst, walkLast] at hlast ⊢; omega

theorem sweepAt_one_of_start (hi : Inv ⟨c, r⟩) (hst : r.filtStart = true) : SweepAt 1 (tickAct r) := by
  obtain ⟨hload, hpos⟩ := engineTick_starts (filt_idle_of_filtStart hi hst) hst
  have hbusy : (tickAct r).filt.state ≠ .idle := by rw [tickAct_filt, hload]; decide
  exact .inl ⟨hbusy, hpos⟩

/-- Before the sweep is over every tick takes it one tick on. -/
theorem sweepAt_succ {k : Nat} (hk : k < 8 * c.nCh + 5) (h : SweepAt k r) :
    SweepAt (k + 1) (tickAct r) := by
  rcases h with ⟨hs, rfl⟩ | ⟨-, rfl⟩
  · by_cases hend : (act r.engineOp r).filt.state = .idle
    · exact .inr ⟨hend, filtPos_of_engineTick_ends hs hend⟩
    · exact .inl ⟨hend, (engineTick_advances hs).resolve_left hend⟩
  · omega

/-- The place in the sweep gives `f_state` and `f_k` (R192). -/
theorem timetable_of_sweepAt {j : Nat} (hc : r.CountersOk) (h : SweepAt j r) :
    (j ≤ 2 * c.nCh → r.filt.state = .load ∧ r.filt.k = j - 1) ∧
    (2 * c.nCh < j → j ≤ 6 * c.nCh + 4 → r.filt.state = .process ∧ r.filt.k = j - 1 - 2 * c.nCh) ∧
    (6 * c.nCh + 4 < j → j ≤ 8 * c.nCh + 4 →
      r.filt.state = .shift ∧ r.filt.k = j - (6 * c.nCh + 5)) ∧
    (j = 8 * c.nCh + 5 → r.fDone = true) ∧
    (r.shiftEntry = true ↔ j = 6 * c.nCh + 5) := by
  have hn : 0 < c.nCh := Nat.two_pow_pos _
  obtain ⟨-, hk, -, -⟩ := (countersOk_iff r).1 hc
  rcases h with ⟨hs, rfl⟩ | ⟨hs, rfl⟩
  · simp only [shiftEntry, fDone, filtPos, Config.tLoad, Config.tProc, Bool.and_eq_true, beq_iff_eq]
    cases hst : r.filt.state with
    | idle => exact absurd hst hs
    | load | process | shift =>
      simp only [hst, walkLast, reduceCtorEq, false_and, true_and, false_iff] at hk ⊢
      omega
  · simp only [shiftEntry, fDone, hs, reduceCtorEq, beq_iff_eq, Bool.and_eq_true, false_and,
      false_iff, implies_true, true_and]
    omega

end Sys2Proof.Laws

namespace Sys2Proof.Proofs

open Sys2Proof.Machine Sys2Proof.Laws

/-- Settles O6: the run finds the sweep at its place, and the place gives `f_state` and `f_k`. -/
theorem sweepFollowsItsTimetable : Obligations.SweepFollowsItsTimetable := by
  rintro ⟨c, r⟩ hi hf honly hst j hpos hj
  obtain ⟨t, hrun, hit, hat⟩ := run_ticks_from_start (P := SweepAt) (n := 8 * c.nCh + 5)
    (fun _ u inp rest hk _ h => sweepAt_succ (r := u.present inp rest) hk h)
    (fun inp rest => sweepAt_one_of_start (r := r.present inp rest) hi hst) hi hf honly hpos hj
  obtain ⟨-, -, hc, -⟩ := inv_iff.1 hit
  exact ⟨_, hrun, fun ht => timetable_of_sweepAt hc (hat ht)⟩

end Sys2Proof.Proofs
end

section
/-! PROOFS. The arithmetic of the multiply-accumulate unit (41_filter_engine.md rules R197, R208, R210,
R211): every narrowing is of a mathematical integer, and where the integer fits it is exact. -/

namespace Sys2Proof

/-- Narrowing keeps an integer that fits (R11). -/
theorem sval_trunc {w : Nat} {i : Int} (hlo : -2 ^ w ≤ 2 * i) (hhi : 2 * i < 2 ^ w) :
    sval (trunc w i) = i := by
  have hcast : ((2 ^ w : Nat) : Int) = 2 ^ w := by push_cast; rfl
  rw [sval, trunc, BitVec.toInt_ofInt]
  exact Int.bmod_eq_of_le (by rw [hcast]; omega) (by rw [hcast]; omega)

theorem sval_trunc_of_abs {w : Nat} {i : Int} (h : 2 * |i| < 2 ^ w) : sval (trunc w i) = i :=
  sval_trunc (by linarith [neg_abs_le i]) (by linarith [le_abs_self i])

theorem two_mul_abs_sval_le {w : Nat} (v : BitVec w) : 2 * |sval v| ≤ 2 ^ w := by
  have hlo : -2 ^ w ≤ 2 * sval v := BitVec.le_two_mul_toInt
  have hhi : 2 * sval v < 2 ^ w := BitVec.two_mul_toInt_lt
  rcases abs_choice (sval v) with h | h <;> rw [h] <;> omega

/-- A sign-extended word shifted left is the narrowed multiple. -/
theorem sext_shiftLeft {w : Nat} (n k : Nat) (v : BitVec w) :
    sext n v <<< k = trunc n (sval v * 2 ^ k) := by
  have hpow : BitVec.twoPow n k = BitVec.ofInt n (2 ^ k) := by
    apply BitVec.eq_of_toNat_eq
    rw [BitVec.toNat_twoPow, ← BitVec.toNat_ofNat, ← BitVec.ofInt_natCast, Nat.cast_pow]
    rfl
  rw [BitVec.shiftLeft_eq_mul_twoPow, hpow, trunc, BitVec.ofInt_mul]
  rfl

end Sys2Proof

namespace Sys2Proof.Config

variable {c : Config}

/-- The accumulator has three bits to spare over a product (R362, CF1). -/
theorem product_le_accumulator (h : c.valid = true) : c.S + c.K + 3 ≤ c.A := by
  simpa [holds] using holds_of_valid h .cf1

/-- An aligned offset fits the state word, which is no shorter than a half-word (R362, CF6). -/
theorem offset_le_state (h : c.valid = true) : c.K + c.offsetAlign ≤ c.S ∧ 16 ≤ c.K := by
  have h6 := holds_of_valid h .cf6
  simp only [holds, Bool.and_eq_true, decide_eq_true_eq] at h6
  tauto

end Sys2Proof.Config

namespace Sys2Proof.Machine

variable {c : Config}

/-! ## Operands (R197, R208) -/

theorem widenX_eq (s : BitVec c.W) : widenX c s = trunc c.S (sval s * 2 ^ c.xAlign) :=
  sext_shiftLeft _ _ s

/-- In a checked configuration aligning the offset loses no bit. -/
theorem widenOffset_eq (hv : c.valid = true) (o : BitVec c.K) :
    widenOffset c o = sval o * 2 ^ c.offsetAlign := by
  have hlo : -2 ^ c.K ≤ 2 * sval o := BitVec.le_two_mul_toInt
  have hhi : 2 * sval o < 2 ^ c.K := BitVec.two_mul_toInt_lt
  have hpos : (0 : Int) < 2 ^ c.offsetAlign := by positivity
  have hfit : (2 : Int) ^ c.K * 2 ^ c.offsetAlign ≤ 2 ^ c.S := by
    rw [← pow_add]
    exact pow_le_pow_right₀ (by decide) (Config.offset_le_state hv).1
  rw [widenOffset, sext_shiftLeft]
  refine sval_trunc ?_ ?_
  · linarith [mul_le_mul_of_nonneg_right hlo hpos.le]
  · linarith [mul_lt_mul_of_pos_right hhi hpos]

/-! ## Accumulation (R209, R210) -/

/-- Accumulating on a narrowed integer narrows the sum: narrowing twice is narrowing once. -/
theorem mac_trunc (i d : Int) (a : BitVec c.S) (b : BitVec c.K) :
    mac c (trunc c.A i) d a b = trunc c.A (i + (d - sval a) * sval b) := by
  rw [mac, trunc, trunc, trunc, BitVec.ofInt_add, BitVec.ofInt_toInt, ← BitVec.ofInt_add]

/-- One product, its operand no larger than a state word, takes `S + K` bits. -/
theorem two_mul_abs_product_le {d : Int} (hd : 2 * |d| ≤ 2 ^ c.S) (a : BitVec c.S) (b : BitVec c.K) :
    2 * |(d - sval a) * sval b| ≤ 2 ^ (c.S + c.K) := by
  have hdiff : |d - sval a| ≤ 2 ^ c.S := by
    have := abs_sub d (sval a)
    have := two_mul_abs_sval_le a
    omega
  calc 2 * |(d - sval a) * sval b| = |d - sval a| * (2 * |sval b|) := by rw [abs_mul]; ring
    _ ≤ 2 ^ c.S * 2 ^ c.K :=
      mul_le_mul hdiff (two_mul_abs_sval_le b) (by positivity) (by positivity)
    _ = 2 ^ (c.S + c.K) := (pow_add 2 _ _).symm

/-- In a checked configuration the three accumulations of a channel give the sum of the three products:
each takes `S + K` bits, and the accumulator has three more. -/
theorem sval_mac_mac_mac (hv : c.valid = true) (y x0 x1 : BitVec c.S) (a1 b0 b1 o : BitVec c.K) :
    sval (mac c (mac c (mac c 0 0 y a1) (widenOffset c o) x0 b0) (widenOffset c o) x1 b1) =
      (0 - sval y) * sval a1 + (widenOffset c o - sval x0) * sval b0 +
        (widenOffset c o - sval x1) * sval b1 := by
  have hoff : 2 * |widenOffset c o| ≤ 2 ^ c.S := two_mul_abs_sval_le _
  have hy := two_mul_abs_product_le (c := c) (d := 0) (by simp) y a1
  have hx0 := two_mul_abs_product_le hoff x0 b0
  have hx1 := two_mul_abs_product_le hoff x1 b1
  have hsum := abs_add_three ((0 - sval y) * sval a1) ((widenOffset c o - sval x0) * sval b0)
    ((widenOffset c o - sval x1) * sval b1)
  have hpos : (0 : Int) < 2 ^ (c.S + c.K) := by positivity
  have hfit : (2 : Int) ^ (c.S + c.K) * 2 ^ 3 ≤ 2 ^ c.A := by
    rw [← pow_add]
    exact pow_le_pow_right₀ (by decide) (Config.product_le_accumulator hv)
  have hzero : (0 : BitVec c.A) = trunc c.A 0 := rfl
  rw [hzero, mac_trunc, mac_trunc, mac_trunc, zero_add]
  exact sval_trunc_of_abs (by linarith)

/-! ## Shift and saturate (R211) -/

theorem sval_shiftRight {w : Nat} (v : BitVec w) (n : Nat) : sval v >>> n = sval v / 2 ^ n := by
  rw [Int.shiftRight_eq_div_pow]
  push_cast
  rfl

theorem clipMax_eq (c : Config) : clipMax c = 2 ^ (c.S - 1) - 1 := by
  rw [clipMax]
  push_cast
  rfl

theorem sval_clip (hS : 1 ≤ c.S) (sum : BitVec c.A) :
    sval (clip c sum) = max 0 (min (sval sum / 2 ^ c.SH) (2 ^ (c.S - 1) - 1)) := by
  have hpos : (0 : Int) < 2 ^ (c.S - 1) := by positivity
  have htwice : (2 : Int) ^ c.S = 2 * 2 ^ (c.S - 1) := by rw [← pow_succ', Nat.sub_add_cancel hS]
  rw [clip, clampInt, clipMax_eq, sval_shiftRight, sval_trunc] <;> omega

/-- The clipped sum of a channel's three accumulations is the filter's output (R218). -/
theorem sval_clip_filter (hv : c.valid = true) (y1 x0 x1 : BitVec c.S) (a1 b0 b1 o : BitVec c.K) :
    sval (clip c (mac c (mac c (mac c 0 0 y1 a1) (widenOffset c o) x0 b0) (widenOffset c o) x1 b1)) =
      max 0 (min
        ((sval a1 * (0 - sval y1) + sval b0 * (sval o * 2 ^ c.offsetAlign - sval x0) +
          sval b1 * (sval o * 2 ^ c.offsetAlign - sval x1)) / 2 ^ c.SH)
        (2 ^ (c.S - 1) - 1)) := by
  have hS : 1 ≤ c.S := by have := Config.offset_le_state hv; omega
  rw [sval_clip hS, sval_mac_mac_mac hv, widenOffset_eq hv, mul_comm (sval a1), mul_comm (sval b0),
    mul_comm (sval b1)]

theorem clips_iff (sum : BitVec c.A) :
    clips c sum = true ↔
      sval sum / 2 ^ c.SH < 0 ∨ 2 ^ (c.S - 1) - 1 < sval sum / 2 ^ c.SH := by
  rw [clips, clipMax_eq, sval_shiftRight, Bool.or_eq_true, decide_eq_true_eq, decide_eq_true_eq]

end Sys2Proof.Machine

namespace Sys2Proof.Proofs

open Sys2Proof.Machine

/-- Settles O29: the clamped quotient fits the state word, so that its narrowing is exact. -/
theorem clipSaturatesAndNeverWraps : Obligations.ClipSaturatesAndNeverWraps :=
  fun _ sum hS => ⟨sval_clip hS sum, clips_iff sum⟩

/-- Settles O30: CF1 leaves room for the sum of three products. -/
theorem accumulatorNeverWraps : Obligations.AccumulatorNeverWraps :=
  fun _ y x0 x1 a1 b0 b1 off hv => sval_mac_mac_mac hv y x0 x1 a1 b0 b1 off

end Sys2Proof.Proofs
end

section
/-! PROOFS. IDLE_WAIT and the two walks that move samples (41_filter_engine.md rules R193, R195 to R199,
R222). -/

namespace Sys2Proof.Machine.Regs

variable {c : Config} {r : Regs c}

theorem doIdleWait_of_not (hst : r.filtStart = false) : r.doIdleWait = r := by
  simp [doIdleWait, hst]

theorem doIdleWait_of_start (hst : r.filtStart = true) :
    r.doIdleWait = { r with filt := { r.filt with state := .load, k := 0, lat := r.ctrl } } := by
  rw [doIdleWait, if_pos hst]

/-! ## A channel's two ticks in LOAD and SHIFT (R193) -/

/-- The first of a channel's two ticks counts. -/
theorem walk_even (n : Regs c) {i : Fin c.nCh} (hk : r.filt.k = 2 * i.val) (next : FState) :
    r.walk n (2 * c.nCh - 1) next =
      { n with filt := { n.filt with state := r.filt.state, k := 2 * i.val + 1 } } := by
  have hlast : r.filt.k ≠ 2 * c.nCh - 1 := by have := i.isLt; omega
  rw [walk_count r n hlast, hk]

/-- The second goes on to the next channel, or after the last one to the next state. -/
theorem walk_odd (n : Regs c) {i : Fin c.nCh} (hk : r.filt.k = 2 * i.val + 1) (next : FState) :
    r.walk n (2 * c.nCh - 1) next = { n with filt := { n.filt with
      state := if i.val + 1 = c.nCh then next else r.filt.state
      k := if i.val + 1 = c.nCh then 0 else 2 * i.val + 2 } } := by
  by_cases hlast : i.val + 1 = c.nCh
  · rw [walk_leave r n (by omega), if_pos hlast, if_pos hlast]
  · rw [walk_count r n (by omega), if_neg hlast, if_neg hlast, hk]

/-- `LOAD_SX` of channel `i`, its sample valid. -/
theorem doLoadSx_of {i : Fin c.nCh} (hst : r.filtStart = false) (hrd : r.reading = false)
    (hk : r.filt.k = 2 * i.val) :
    r.doLoadSx = { r with filt := { r.filt with
      sx := widenX c r.acq.data[i], k := 2 * i.val + 1 } } := by
  obtain rfl : r.walkChan = i := r.walkChan_of (p := 0) i (by decide) hk
  simp only [doLoadSx, filtBusyStart_of_not _ hst, hrd, Bool.false_eq_true, if_false, walkLoad,
    walk_even _ hk]

/-- `LOAD_WR` of channel `i`. -/
theorem doLoadWr_of {i : Fin c.nCh} (hst : r.filtStart = false) (hk : r.filt.k = 2 * i.val + 1) :
    r.doLoadWr = { r with
      sm := r.sm.write c.memInit (smX0 c i.val) r.filt.sx
      filt := { r.filt with
        state := if i.val + 1 = c.nCh then .process else r.filt.state
        k := if i.val + 1 = c.nCh then 0 else 2 * i.val + 2 } } := by
  rw [doLoadWr, filtBusyStart_of_not _ hst, r.walkChan_of (p := 1) i (by decide) hk, walkLoad,
    walk_odd _ hk]
  rfl

/-- `SHIFT_RD` of channel `i`, its `x0` defined. -/
theorem doShiftRd_of {i : Fin c.nCh} {v : BitVec c.S} (hst : r.filtStart = false)
    (hk : r.filt.k = 2 * i.val) (hx0 : r.stRead (smX0 c i.val) = some v) :
    r.doShiftRd = { r with filt := { r.filt with sd := v, k := 2 * i.val + 1 } } := by
  rw [doShiftRd, filtBusyStart_of_not _ hst, r.walkChan_of (p := 0) i (by decide) hk, walkShift,
    walk_even _ hk]
  simp only [loadSd, hx0]

/-- `SHIFT_WR` of channel `i`. -/
theorem doShiftWr_of {i : Fin c.nCh} (hst : r.filtStart = false) (hk : r.filt.k = 2 * i.val + 1) :
    r.doShiftWr = { r with
      sm := r.sm.write c.memInit (smX1 c i.val) r.filt.sd
      filt := { r.filt with
        state := if i.val + 1 = c.nCh then .idle else r.filt.state
        k := if i.val + 1 = c.nCh then 0 else 2 * i.val + 2 } } := by
  rw [doShiftWr, filtBusyStart_of_not _ hst, r.walkChan_of (p := 1) i (by decide) hk, walkShift,
    walk_odd _ hk]
  rfl

end Sys2Proof.Machine.Regs

namespace Sys2Proof.Proofs

open Sys2Proof.Machine Sys2Proof.Machine.Regs Sys2Proof.Laws

/-- Settles O20: the tick without and with a start. -/
theorem idleWaitLatchesChannelControl : Obligations.IdleWaitLatchesChannelControl := by
  intro c r
  refine ⟨fun hst => ?_, fun hst => ?_⟩
  · rw [exec_eq, act, doIdleWait_of_not hst]
  · rw [exec_eq, act, doIdleWait_of_start hst]

/-- Settles O21: widening a sample is narrowing its multiple. -/
theorem loadSxWidensTheSample : Obligations.LoadSxWidensTheSample := by
  intro c r i _ hst hrd hk
  rw [exec_eq, act, doLoadSx_of hst hrd hk, widenX_eq]

/-- Settles O23: one write, at the address of the channel's `x0`. -/
theorem loadWrStoresTheSample : Obligations.LoadWrStoresTheSample := by
  intro c r i hst hs hk hwf
  refine ⟨_, by rw [exec_eq, act, doLoadWr_of hst hk, hs], fun a => ?_⟩
  rw [Mem.read_write r.sm hwf, smX0_eq i.isLt]
  rfl

/-- Settles O32: the read of `x0` in the first tick, and one write at the address of `x1` in the
second. -/
theorem shiftCopiesOneSample : Obligations.ShiftCopiesOneSample := by
  intro c r i hst hs
  refine ⟨fun v hk hx0 => ?_, fun hk hwf => ⟨_, by rw [exec_eq, act, doShiftWr_of hst hk, hs],
    fun a => ?_⟩⟩
  · rw [← smX0_eq i.isLt] at hx0
    rw [exec_eq, act, doShiftRd_of hst hk hx0]
  · rw [Mem.read_write r.sm hwf, smX1_eq i.isLt]
    rfl

end Sys2Proof.Proofs
end

section
/-! PROOFS. A slot of PROCESS (41_filter_engine.md rules R205 to R218): the fetch of a channel's words,
and the four phases that compute a channel. -/

namespace Sys2Proof.Machine.Regs

variable {c : Config} {r : Regs c}

/-! ## The fetch (R206) -/

theorem filtBusyStart_filt : r.filtBusyStart.filt = r.filt := by
  rw [filtBusyStart_eq]

/-- In slot `s` a phase 0, 1, 2 fetches a defined word of channel `s` into `CQ`. -/
theorem fetch_words {s : Fin c.nCh} {p : Nat} {word : Fin 4} {w : BitVec (c.K + c.K)}
    (hp : p < 4) (hk : r.filt.k = 4 * s.val + p)
    (hw : r.coefRead (s.val * 2 ^ (c.P + 2) + r.filt.lat[s].profile.toNat * 4 + word.val) = some w) :
    (r.fetch r.filtBusyStart word).filt.cq = r.filt.cq.set word.val w ∧
      (r.fetch r.filtBusyStart word).filt.cx = r.filt.cx := by
  rw [← r.fetchAddr_of s hp word.isLt hk] at hw
  simp only [fetch, (r.fetches_of s.isLt hp hk).1, hw, if_true, filtBusyStart_filt, and_self]

/-- In slot `s` phase 3 fetches a defined word 3 of channel `s` into `CX`, after the words in `CQ`. -/
theorem fetchLast_words {s : Fin c.nCh} {p : Nat} {w : BitVec (c.K + c.K)}
    (hp : p < 4) (hk : r.filt.k = 4 * s.val + p)
    (hw : r.coefRead (s.val * 2 ^ (c.P + 2) + r.filt.lat[s].profile.toNat * 4 + 3) = some w) :
    (r.fetchLast r.filtBusyStart).filt.cq = r.filt.cq ∧
      (r.fetchLast r.filtBusyStart).filt.cx = r.filt.cq.set 3 w := by
  rw [← r.fetchAddr_of s hp (by decide) hk] at hw
  simp only [fetchLast, (r.fetches_of s.isLt hp hk).1, hw, if_true, filtBusyStart_filt, and_self]

/-! No phase's computation touches the coefficient words. -/

theorem calcP0_words (n : Regs c) :
    (r.calcP0 n).filt.cq = n.filt.cq ∧ (r.calcP0 n).filt.cx = n.filt.cx := by
  obtain ⟨fs, sd, acc, e, -⟩ := r.calcP0_keeps n
  rw [e]
  exact ⟨rfl, rfl⟩

theorem calcP1_words (n : Regs c) :
    (r.calcP1 n).filt.cq = n.filt.cq ∧ (r.calcP1 n).filt.cx = n.filt.cx := by
  obtain ⟨fs, sd, yo, acc, e, -⟩ := r.calcP1_keeps n
  rw [e]
  exact ⟨rfl, rfl⟩

theorem calcP2_words (n : Regs c) :
    (r.calcP2 n).filt.cq = n.filt.cq ∧ (r.calcP2 n).filt.cx = n.filt.cx := by
  obtain ⟨fs, sd, acc, e, -⟩ := r.calcP2_keeps n
  rw [e]
  exact ⟨rfl, rfl⟩

theorem calcP3_words (n : Regs c) :
    (r.calcP3 n).filt.cq = n.filt.cq ∧ (r.calcP3 n).filt.cx = n.filt.cx := by
  cases hc : r.calculates with
  | false => rw [(r.calc_of_not n hc).2.2.2]; exact ⟨rfl, rfl⟩
  | true => rw [(r.calcP3_of n hc).2.1]; exact ⟨rfl, rfl⟩

/-! ## The phases of a computed channel (R207, R209) -/

/-- The engine walks on within a slot: only phase 3 can be the last tick of PROCESS. -/
theorem walkProcess_of_phase (n : Regs c) {s p : Nat} (hp : p < 3) (hk : r.filt.k = 4 * s + p) :
    r.walkProcess n =
      { n with filt := { n.filt with state := r.filt.state, k := r.filt.k + 1 } } :=
  walk_count r n (by omega)

theorem smX0_calcSel (r : Regs c) :
    smX0 c r.calcSel = 2 ^ c.P * 2 ^ c.C + (cfgSel c (r.fld .cfg)).toNat :=
  smX0_eq (BitVec.isLt _)

theorem smX1_calcSel (r : Regs c) :
    smX1 c r.calcSel = (2 ^ c.P + 1) * 2 ^ c.C + (cfgSel c (r.fld .cfg)).toNat :=
  smX1_eq (BitVec.isLt _)

variable {ch : Fin c.nCh} {v : BitVec c.S}

/-- `PROC_P0` of a channel whose `y1` is defined. -/
theorem doProcP0_of (hk : r.filt.k = 4 * (ch.val + 1))
    (hy1 : r.stRead (r.filt.lat[ch].profile.toNat * 2 ^ c.C + ch.val) = some v) :
    ∃ fs cq, r.doProcP0 = { r with
      faults := fs, filt := { r.filt with k := r.filt.k + 1, cq := cq, sd := v, acc := 0 } } := by
  obtain ⟨fs, cq, e, -⟩ := r.fetchBusy_keeps 0
  obtain ⟨hcalc, -⟩ := r.calculates_of (p := 0) ch (by decide) hk
  rw [← r.calcY1_of (p := 0) ch (by decide) hk] at hy1
  refine ⟨fs, cq, ?_⟩
  rw [doProcP0, walkProcess_of_phase (s := ch.val + 1) (p := 0) _ (by decide) hk, e]
  simp only [calcP0, hcalc, loadSd, hy1, if_true]

/-- `PROC_P1` of a channel whose `x0` is defined. -/
theorem doProcP1_of (hk : r.filt.k = 4 * (ch.val + 1) + 1)
    (hx0 : r.stRead (2 ^ c.P * 2 ^ c.C + (cfgSel c (r.fld .cfg)).toNat) = some v) :
    ∃ fs cq, r.doProcP1 = { r with
      faults := fs
      filt := { r.filt with
        k := r.filt.k + 1, cq := cq, sd := v, yo := r.filt.sd
        acc := mac c r.filt.acc 0 r.filt.sd (r.fld .a1) } } := by
  obtain ⟨fs, cq, e, -⟩ := r.fetchBusy_keeps 1
  obtain ⟨hcalc, -⟩ := r.calculates_of ch (by decide) hk
  rw [← smX0_calcSel] at hx0
  refine ⟨fs, cq, ?_⟩
  rw [doProcP1, walkProcess_of_phase _ (by decide) hk, e]
  simp only [calcP1, hcalc, loadSd, hx0, if_true]

/-- `PROC_P2` of a channel whose `x1` is defined. -/
theorem doProcP2_of (hk : r.filt.k = 4 * (ch.val + 1) + 2)
    (hx1 : r.stRead ((2 ^ c.P + 1) * 2 ^ c.C + (cfgSel c (r.fld .cfg)).toNat) = some v) :
    ∃ fs cq, r.doProcP2 = { r with
      faults := fs
      filt := { r.filt with
        k := r.filt.k + 1, cq := cq, sd := v
        acc := mac c r.filt.acc (widenOffset c (r.fld .offset)) r.filt.sd (r.fld .b0) } } := by
  obtain ⟨fs, cq, e, -⟩ := r.fetchBusy_keeps 2
  obtain ⟨hcalc, -⟩ := r.calculates_of ch (by decide) hk
  rw [← smX1_calcSel] at hx1
  refine ⟨fs, cq, ?_⟩
  rw [doProcP2, walkProcess_of_phase _ (by decide) hk, e]
  simp only [calcP2, hcalc, loadSd, hx1, if_true]
  rfl

/-- `PROC_P3` of a channel (R209, R211, R213 to R217). -/
theorem doProcP3_of (hk : r.filt.k = 4 * (ch.val + 1) + 3) :
    ∃ fs st k cx, r.doProcP3 = { r with
      faults := fs
      sm := if r.gate then
          r.sm.write c.memInit (r.filt.lat[ch].profile.toNat * 2 ^ c.C + ch.val) r.calcY else r.sm
      outs := { r.outs with clip := some (clips c r.calcSum) }
      filt := { r.filt with
        state := st, k := k, cx := cx, acc := r.calcSum
        ob := r.filt.ob.set ch r.calcWord
        dly := r.filt.dly.set ch (nextDly r.filt.lat[ch].enOut r.filt.dly[ch] r.calcDelay) } } := by
  obtain ⟨fs, e, -⟩ := r.filtBusyStart_keeps
  obtain ⟨fs', cx, e', -⟩ := r.fetchLast_keeps r.filtBusyStart
  obtain ⟨hcalc, hch⟩ := r.calculates_of ch (by decide) hk
  rw [← r.calcY1_of ch (by decide) hk]
  obtain rfl := hch
  rw [doProcP3, e', e]
  cases hg : r.gate <;> exact ⟨fs', _, _, cx, by simp only [calcP3, hcalc, hg, if_true]; rfl⟩

/-- The gate in slot `ch + 1`, as a function of channel `ch`'s latch and counter (R213). -/
theorem gate_eq (hk : r.filt.k = 4 * (ch.val + 1) + 3) :
    r.gate = gateOpen r.filt.lat[ch] r.filt.dly[ch] (cfgDelay c (r.fld .cfg)) := by
  obtain ⟨-, rfl⟩ := r.calculates_of ch (by decide) hk
  rfl

/-- Phases 0, 1 and 2 together: the three products are accumulated but for the last, `YO` keeps `y1` and
`SD` holds `x1`. -/
theorem doProcP0_P1_P2_of {y1 x0 x1 : BitVec c.S} (hk : r.filt.k = 4 * (ch.val + 1))
    (hy1 : r.stRead (r.filt.lat[ch].profile.toNat * 2 ^ c.C + ch.val) = some y1)
    (hx0 : r.stRead (2 ^ c.P * 2 ^ c.C + (cfgSel c (r.fld .cfg)).toNat) = some x0)
    (hx1 : r.stRead ((2 ^ c.P + 1) * 2 ^ c.C + (cfgSel c (r.fld .cfg)).toNat) = some x1) :
    ∃ fs cq, r.doProcP0.doProcP1.doProcP2 = { r with
      faults := fs
      filt := { r.filt with
        k := r.filt.k + 3, cq := cq, sd := x1, yo := y1
        acc := mac c (mac c 0 0 y1 (r.fld .a1)) (widenOffset c (r.fld .offset)) x0 (r.fld .b0) } } := by
  obtain ⟨fs0, cq0, e0⟩ := doProcP0_of hk hy1
  obtain ⟨fs1, cq1, e1⟩ := doProcP1_of (r := r.doProcP0) (ch := ch) (v := x0)
    (by rw [e0]; exact congrArg (· + 1) hk) (by rw [e0]; exact hx0)
  rw [e0] at e1
  obtain ⟨fs2, cq2, e2⟩ := doProcP2_of (r := r.doProcP0.doProcP1) (ch := ch) (v := x1)
    (by rw [e0, e1]; exact congrArg (· + 2) hk) (by rw [e0, e1]; exact hx1)
  rw [e0, e1] at e2
  exact ⟨fs2, cq2, by rw [e0, e1]; exact e2⟩

end Sys2Proof.Machine.Regs

namespace Sys2Proof.Machine

variable {c : Config}

/-! ## The output word and the delay counter (R215, R217) -/

theorem outField_eq (v : BitVec c.K) : outField c v = v.setWidth c.WD := by
  ext i hi
  simp [outField, BitVec.getElem_extractLsb', BitVec.getElem_setWidth]

/-- Counting up stops at the threshold, which the counter can hold: it does not wrap. -/
theorem toNat_nextDly (enOut : Bool) (dly delay : BitVec delayWidth) :
    (nextDly enOut dly delay).toNat =
      if enOut = false then 0 else if dly.toNat < delay.toNat then dly.toNat + 1 else dly.toNat := by
  cases enOut with
  | false => rfl
  | true =>
    by_cases hlt : dly.toNat < delay.toNat
    · have hfit : dly.toNat + 1 < 2 ^ delayWidth := by have := delay.isLt; omega
      have hone : (1 : BitVec delayWidth).toNat = 1 := rfl
      simp only [nextDly, hlt, if_true, Bool.true_eq_false, if_false, BitVec.toNat_add, hone,
        Nat.mod_eq_of_lt hfit]
    · simp only [nextDly, hlt, if_true, Bool.true_eq_false, if_false]

/-! ## One entry per channel -/

section
variable {α : Type} {n : Nat} (q : Vector α n) (x : α) {i j : Fin n}

theorem getElem_set_fin_self : (q.set i x)[i] = x := Vector.getElem_set_self i.isLt

theorem getElem_set_fin_ne (h : j ≠ i) : (q.set i x)[j] = q[j] :=
  Vector.getElem_set_ne i.isLt j.isLt fun e => h (Fin.ext e.symm)

end

/-- `CX` as phase 3 loads it from `CQ` and word 3 (R206). -/
theorem vector_set_three {α : Type} (q : Vector α 4) (w : α) : q.set 3 w = #v[q[0], q[1], q[2], w] := by
  ext i hi
  interval_cases i <;> simp

end Sys2Proof.Machine

namespace Sys2Proof.Laws

open Sys2Proof.Machine

theorem exec_of_act {c : Config} {i : Instr} {r t : Regs c} (h : act i r = t) :
    exec i ⟨c, r⟩ = .next ⟨c, t⟩ := by
  rw [exec_eq, h]

end Sys2Proof.Laws

namespace Sys2Proof.Proofs

open Sys2Proof.Machine Sys2Proof.Machine.Regs Sys2Proof.Laws

/-- Settles O24: the fetch loads the words, and no computation touches them. -/
theorem fetchLoadsTheFourWords : Obligations.FetchLoadsTheFourWords := by
  intro c r s w
  refine ⟨fun p hk hw => ?_, fun hk hw => ?_⟩
  · match p, hk, hw with
    | 0, hk, hw =>
      obtain ⟨hcq, hcx⟩ := fetch_words (word := 0) (by decide) hk hw
      exact ⟨_, exec_eq _ r, (calcP0_words _).1.trans hcq, (calcP0_words _).2.trans hcx⟩
    | 1, hk, hw =>
      obtain ⟨hcq, hcx⟩ := fetch_words (word := 1) (by decide) hk hw
      exact ⟨_, exec_eq _ r, (calcP1_words _).1.trans hcq, (calcP1_words _).2.trans hcx⟩
    | 2, hk, hw =>
      obtain ⟨hcq, hcx⟩ := fetch_words (word := 2) (by decide) hk hw
      exact ⟨_, exec_eq _ r, (calcP2_words _).1.trans hcq, (calcP2_words _).2.trans hcx⟩
  · obtain ⟨hcq, hcx⟩ := fetchLast_words (by decide) hk hw
    exact ⟨_, exec_eq _ r, ((calcP3_words _).2.trans hcx).trans (vector_set_three _ w),
      (calcP3_words _).1.trans hcq⟩

/-- Settles O25, phase by phase. -/
theorem computePhasesAccumulate : Obligations.ComputePhasesAccumulate := by
  intro c r ch v
  refine ⟨fun hk hy1 => ?_, fun hk hx0 => ?_, fun hk hx1 => ?_⟩
  · obtain ⟨fs, cq, e⟩ := doProcP0_of hk hy1
    exact ⟨_, exec_of_act e, rfl, rfl, rfl, rfl, rfl⟩
  · obtain ⟨fs, cq, e⟩ := doProcP1_of hk hx0
    exact ⟨_, exec_of_act e, rfl, rfl, rfl, rfl, rfl⟩
  · obtain ⟨fs, cq, e⟩ := doProcP2_of hk hx1
    exact ⟨_, exec_of_act e, rfl, rfl, rfl, rfl, rfl⟩

/-- Settles O26: one write behind the gate. -/
theorem procP3WritesBackThroughTheGate : Obligations.ProcP3WritesBackThroughTheGate := by
  intro c r ch hk hwf
  obtain ⟨fs, st, k, cx, e⟩ := doProcP3_of hk
  have hgate := r.gate_of ch (by decide) hk
  refine ⟨_, exec_of_act e, rfl, rfl, fun hopen a => ?_, fun hclosed => if_neg (mt hgate.1 hclosed)⟩
  simp only [stRead, hgate.2 hopen, if_true]
  exact Mem.read_write r.sm hwf _ a _

/-- Settles O27: the entry is `calcWord`, its amplitude chosen by the gate. -/
theorem procP3FillsTheOutputBuffer : Obligations.ProcP3FillsTheOutputBuffer := by
  intro c r ch hk
  obtain ⟨fs, st, k, cx, e⟩ := doProcP3_of hk
  have hob := getElem_set_fin_self r.filt.ob r.calcWord (i := ch)
  refine ⟨_, exec_of_act e, (congrArg OutWord.ftw0 hob).trans (outField_eq _),
    (congrArg OutWord.ftw1 hob).trans (outField_eq _), (congrArg OutWord.pow hob).trans (outField_eq _),
    (congrArg OutWord.asf hob).trans ?_, fun d hd => getElem_set_fin_ne _ _ hd⟩
  simp only [← r.gate_of ch (by decide) hk]
  rfl

/-- Settles O28: the counter is `nextDly`, which does not wrap. -/
theorem procP3UpdatesTheDelayCounter : Obligations.ProcP3UpdatesTheDelayCounter := by
  intro c r ch hk
  obtain ⟨fs, st, k, cx, e⟩ := doProcP3_of hk
  exact ⟨_, exec_of_act e,
    (congrArg BitVec.toNat (getElem_set_fin_self _ _)).trans (toNat_nextDly _ _ _),
    fun d hd => getElem_set_fin_ne _ _ hd⟩

/-- Settles O31: phase 3 on the sum that phases 0, 1 and 2 leave, which CF1 and CF6 make exact. -/
theorem channelSlotComputesTheFilter : Obligations.ChannelSlotComputesTheFilter := by
  intro c r ch y1 x0 x1 hv hk hwf hy1 hx0 hx1
  obtain ⟨r3, hr3⟩ : ∃ r3, r.doProcP0.doProcP1.doProcP2 = r3 := ⟨_, rfl⟩
  obtain ⟨fs, cq, e⟩ := doProcP0_P1_P2_of hk hy1 hx0 hx1
  rw [hr3] at e
  have hk3 : r3.filt.k = 4 * (ch.val + 1) + 3 := by rw [e]; exact congrArg (· + 3) hk
  have hfld : ∀ f, r3.fld f = r.fld f := fun f => by rw [e]; rfl
  have hsm : r3.sm = r.sm := by rw [e]
  have hlat : r3.filt.lat = r.filt.lat := by rw [e]
  have hdly : r3.filt.dly = r.filt.dly := by rw [e]
  have hyo : r3.filt.yo = y1 := by rw [e]
  have hsum : r3.calcSum = mac c (mac c (mac c 0 0 y1 (r.fld .a1)) (widenOffset c (r.fld .offset)) x0
      (r.fld .b0)) (widenOffset c (r.fld .offset)) x1 (r.fld .b1) := by rw [e]; rfl
  have hgate : r3.gate = gateOpen r.filt.lat[ch] r.filt.dly[ch] (cfgDelay c (r.fld .cfg)) := by
    rw [gate_eq hk3, hlat, hdly, hfld]
  obtain ⟨fs', st, k, cx, e'⟩ := doProcP3_of hk3
  rw [hsm, hlat, hdly] at e'
  refine ⟨_, _, r3, _, r3.calcY, exec_eq _ _, exec_eq _ _, exec_of_act hr3, exec_of_act e', ?_,
    fun a => ?_, (getElem_set_fin_self _ _).trans ?_, (getElem_set_fin_self _ _).trans ?_⟩
  · rw [calcY, hsum]
    exact sval_clip_filter hv y1 x0 x1 _ _ _ _
  · rw [← hgate]
    cases r3.gate with
    | true =>
      simp only [stRead, if_true]
      exact Mem.read_write r.sm hwf _ a _
    | false =>
      simp only [stRead, Bool.false_eq_true, if_false]
      split
      · next h => rw [h]; exact hy1
      · rfl
  · simp only [calcWord, calcOut, hgate, hyo, hfld]
  · simp only [calcDelay, hfld]

end Sys2Proof.Proofs
end

section
/-! PROOFS. A frame's timetable (42_output_assembler.md rule R264). -/

namespace Sys2Proof.Laws

open Sys2Proof.Machine Sys2Proof.Machine.Regs

variable {c : Config} {r : Regs c}

/-- `k` ticks after the start of a frame: being sent and `k` ticks in, or sent after `t_output`. -/
def OutAt (k : Nat) (r : Regs c) : Prop :=
  (r.out.busy = true ∧ r.outPos = k) ∨ (r.out.busy = false ∧ k = c.tOutput)

/-- A frame's last tick is the `t_output - 1`-th after its start: the countdown is at 0 (R263). -/
theorem outPos_of_outTick_ends (hv : c.valid = true) (hb : r.out.busy = true)
    (hend : (act r.outOp r).out.busy = false) : r.outPos + 1 = c.tOutput := by
  have htwo := Config.two_le_tOutput hv
  rcases outTick_cases r with ⟨h, -⟩ | ⟨h, -⟩ | ⟨-, hcnt, -⟩ | ⟨-, -, h, -⟩
  · simp [h] at hb
  · simp [h] at hb
  · rw [outPos, if_pos hb, hcnt]
    omega
  · simp [h] at hend

theorem outAt_one_of_start (hi : Inv ⟨c, r⟩) (hst : r.outStart = true) : OutAt 1 (tickAct r) :=
  .inl (outTick_starts (inv_iff.1 hi).1 (out_idle_of_outStart hi hst) hst)

/-- Before the `t_output`-th tick every tick takes the frame one tick on. -/
theorem outAt_succ {k : Nat} (hk : k < c.tOutput) (hi : Inv ⟨c, r⟩) (h : OutAt k r) :
    OutAt (k + 1) (tickAct r) := by
  obtain ⟨hv, -, hc, -⟩ := inv_iff.1 hi
  rcases h with ⟨hb, rfl⟩ | ⟨-, rfl⟩
  · cases hend : (act r.outOp r).out.busy with
    | false => exact .inr ⟨hend, outPos_of_outTick_ends hv hb hend⟩
    | true => exact .inl ⟨hend, (outTick_advances hv hc hb).resolve_left (by simp [hend])⟩
  · omega

/-- A frame is sent exactly `t_output` ticks in. -/
theorem oDone_of_outAt {j : Nat} (hi : Inv ⟨c, r⟩) (h : OutAt j r) :
    r.oDone = decide (j = c.tOutput) := by
  obtain ⟨hv, -, hc, -⟩ := inv_iff.1 hi
  rcases h with ⟨hb, rfl⟩ | ⟨hb, rfl⟩
  · have := outPos_bounds hv hc hb
    have hne : r.outPos ≠ c.tOutput := by omega
    simp [oDone, hb, hne]
  · simp [oDone, hb]

end Sys2Proof.Laws

namespace Sys2Proof.Proofs

open Sys2Proof.Machine Sys2Proof.Laws

/-- Settles O7: the run finds the frame at its place, and the place gives `o_done`. -/
theorem outputTakesToutputTicks : Obligations.OutputTakesToutputTicks := by
  rintro ⟨c, r⟩ hi hf honly hst j hpos hj
  obtain ⟨t, hrun, hit, hat⟩ := run_ticks_from_start (P := OutAt) (n := c.tOutput)
    (fun _ u inp rest hk hu h => outAt_succ (r := u.present inp rest) hk hu h)
    (fun inp rest => outAt_one_of_start (r := r.present inp rest) hi hst) hi hf honly hpos hj
  exact ⟨_, hrun, fun ht => oDone_of_outAt hit (hat ht)⟩

end Sys2Proof.Proofs
end

section
/-! PROOFS. What one tick of the output stage does (42_output_assembler.md rules R262, R263, R265, R266,
R268). -/

namespace Sys2Proof.Machine.Regs

variable {c : Config} {r : Regs c}

theorem doOutStart_of_not (hst : r.outStart = false) : r.doOutStart = r.outTick r := by
  simp [doOutStart, hst]

theorem doOutStart_of_start (hst : r.outStart = true) :
    r.doOutStart = { r with
      out := OutRegs.mk true (c.tOutput - 2) (Vector.ofFn fun ch => frame c r.filt.ob[ch])
        (r.outTick r).out.dl
      outs := (r.outTick r).outs } := by
  simp [doOutStart, hst, outTick]

theorem doOutBusy_eq (r : Regs c) :
    r.doOutBusy = { r with
      out := (if r.out.cnt = 0 then { r.out with busy := false, dl := (r.outTick r).out.dl }
        else { r.out with cnt := r.out.cnt - 1, dl := (r.outTick r).out.dl })
      faults := (if r.outStart then addFault r.faults ⟨.startBusyOut, r.now, .none⟩ else r.faults)
      outs := (r.outTick r).outs } := by
  by_cases hc : r.out.cnt = 0 <;> cases hst : r.outStart <;>
    simp [doOutBusy, hc, hst, outTick, raise]

/-! ## The delay line (R266) -/

theorem getLsbD_zero_outTick_dl (n : Regs c) : (r.outTick n).out.dl.getLsbD 0 = !r.out.busy := by
  simp [BitVec.getElem_append, oDone]

theorem getLsbD_succ_outTick_dl (n : Regs c) {j : Nat} (hj : j < c.updDelay) :
    (r.outTick n).out.dl.getLsbD (j + 1) = r.out.dl.getLsbD j := by
  simp [BitVec.getElem_append, hj]

/-! ## The strobe (R268) and the delivery (R265) -/

theorem delayedDone_iff :
    r.delayedDone = true ↔
      if c.updDelay = 0 then r.out.busy = false else r.out.dl.getLsbD (c.updDelay - 1) = true := by
  unfold delayedDone
  split <;> simp [oDone]

theorem ioUpdate_iff :
    r.ioUpdate = true ↔ r.delayedDone = true ∧ r.out.dl.getLsbD c.updDelay = false := by
  simp [ioUpdate]

theorem oDoneRises_iff :
    r.oDoneRises = true ↔ r.out.busy = false ∧ r.out.dl.getLsbD 0 = false := by
  simp [oDoneRises, oDone]

end Sys2Proof.Machine.Regs

namespace Sys2Proof.Laws

open Sys2Proof.Machine Sys2Proof.Machine.Regs

/-- Both output micro-operations end in the tick of the output stage. -/
theorem act_output_eq_outTick {c : Config} {i : Instr} (h : i ∈ [Instr.outStart, .outBusy])
    (r : Regs c) : ∃ n : Regs c, act i r = r.outTick n := by
  rcases List.mem_pair.1 h with rfl | rfl <;> exact ⟨_, rfl⟩

end Sys2Proof.Laws

namespace Sys2Proof.Proofs

open Sys2Proof.Machine Sys2Proof.Machine.Regs Sys2Proof.Laws

/-- Settles O36, with a start and without. -/
theorem outStartLatchesTheFrames : Obligations.OutStartLatchesTheFrames := by
  intro c r
  refine ⟨(r.outTick r).out.dl, (r.outTick r).outs, Vector.ofFn fun ch => frame c r.filt.ob[ch],
    exec_of_act ?_, fun ch => Vector.getElem_ofFn ch.isLt⟩
  cases hst : r.outStart with
  | true => exact doOutStart_of_start hst
  | false => exact doOutStart_of_not hst

/-- Settles O37. -/
theorem outBusyCountsDown : Obligations.OutBusyCountsDown :=
  fun _ r => ⟨_, _, exec_of_act (doOutBusy_eq r)⟩

/-- Settles O38: the delay line of the output stage's tick, bit by bit. -/
theorem delayLineTakesODone : Obligations.DelayLineTakesODone := by
  intro c r i hi
  obtain ⟨n, e⟩ := act_output_eq_outTick hi r
  refine ⟨_, exec_of_act e, getLsbD_zero_outTick_dl n, fun j hpos hj => ?_⟩
  obtain ⟨j, rfl⟩ := Nat.exists_eq_add_one.2 hpos
  exact getLsbD_succ_outTick_dl n hj

/-- Settles O39: the outputs of the output stage's tick. -/
theorem strobeAndDeliveryFollowODone : Obligations.StrobeAndDeliveryFollowODone := by
  intro c r i hi
  obtain ⟨n, e⟩ := act_output_eq_outTick hi r
  refine ⟨_, exec_of_act e, ioUpdate_iff.trans (and_congr_left' delayedDone_iff), ?_⟩
  simp only [outTick_outs, oDoneRises_iff]

end Sys2Proof.Proofs
end

section
/-! PROOFS. The output frame (30_encoding.md rule R120, 42_output_assembler.md rule R261). -/

namespace Sys2Proof.Config

/-- The amplitude fits an output word field, four of which and the command byte fill a frame (R362,
CF6). -/
theorem asf_le_word_and_frameWidth {c : Config} (h : c.valid = true) :
    c.ASF ≤ c.WD ∧ c.OW = 4 * c.WD + 8 := by
  have h6 := holds_of_valid h .cf6
  simp only [holds, Bool.and_eq_true, decide_eq_true_eq] at h6
  tauto

end Sys2Proof.Config

namespace Sys2Proof.Machine

theorem toNat_append_eq_add {m n : Nat} (x : BitVec m) (y : BitVec n) :
    (x ++ y).toNat = x.toNat * 2 ^ n + y.toNat := by
  rw [BitVec.toNat_append, shiftLeft_or y.isLt]

/-- Cutting to `OW` bits loses nothing: the five fields are `OW` bits wide. -/
theorem toNat_frame {c : Config} (hv : c.valid = true) (o : OutWord c) :
    (frame c o).toNat =
      (c.cmdByte ++ zext c.WD o.asf ++ o.pow ++ o.ftw1 ++ o.ftw0).toNat := by
  obtain ⟨-, hw⟩ := Config.asf_le_word_and_frameWidth hv
  exact BitVec.toNat_setWidth_of_le (by omega)

end Sys2Proof.Machine

namespace Sys2Proof.Proofs

open Sys2Proof.Machine

/-- Settles O40: the fields are appended one after another, and zero-extending the amplitude keeps its
number. -/
theorem frameHoldsItsFiveFields : Obligations.FrameHoldsItsFiveFields := by
  intro c o hv
  have hasf : (zext c.WD o.asf).toNat = o.asf.toNat :=
    BitVec.toNat_setWidth_of_le (Config.asf_le_word_and_frameWidth hv).1
  rw [toNat_frame hv]
  simp only [toNat_append_eq_add, hasf]
  ring

end Sys2Proof.Proofs
end

section
/-! PROOFS. The scheduler's registers after a tick (43_scheduler.md rules R292 to R295). -/

namespace Sys2Proof.Machine.Regs

variable {c : Config} (r : Regs c)

theorem filtStart_iff : r.filtStart = true ↔ r.sched.token0 = true ∧ r.acq.state = .idle := by
  simp [filtStart]

theorem outStart_iff :
    r.outStart = true ↔ r.sched.token1 = true ∧ r.filt.state = .shift ∧ r.filt.k = 0 := by
  simp [outStart, shiftEntry]

end Sys2Proof.Machine.Regs

namespace Sys2Proof.Proofs

open Sys2Proof.Machine Sys2Proof.Machine.Regs Sys2Proof.Laws

/-- Settles O15: a tick commits the scheduler's update, its start pulses spelled out. -/
theorem schedulerCountsAndPassesTheToken : Obligations.SchedulerCountsAndPassesTheToken := by
  intro c r t inp rest hv hf hs hstep
  rw [step_tick hv hf (nextEvent_of_cons hs)] at hstep
  cases hstep
  refine ⟨rfl, ?_, ?_⟩ <;>
    simp only [tickAct_sched, schedule, acqStart_iff, filtStart_iff, outStart_iff, present_inp,
      present_sched, present_acq, present_filt]

end Sys2Proof.Proofs
end

section
/-! PROOFS. Which contract faults a tick can raise (60_exceptions.md rule R378, 43_scheduler.md rules R296,
R301): the host's operation raises those of its own contract, and the stages of a checked CORE at most
the read of a word that nothing has written. -/

namespace Sys2Proof.Config

/-- LOAD has taken its last sample before the next acquisition reads (R301, CF8). -/
theorem read_add_load_le_tCycle {c : Config} (h : c.valid = true) :
    c.tRead + c.acq.tRtt + 2 * c.nCh ≤ c.tCycle := by
  simpa [holds] using holds_of_valid h .cf8

end Sys2Proof.Config

namespace Sys2Proof.Machine

/-- Only a memory that does not power up zeroed has undefined words (R51). -/
theorem Mem.ne_zero_of_read_eq_none {w a : Nat} {ini : MemInit} {m : Mem w}
    (h : m.read ini a = none) : ini ≠ .zero := by
  rintro rfl
  unfold Mem.read at h
  split at h <;> cases h

/-- A code that R378 calls reachable under the checks. -/
def FaultCode.Reachable (code : FaultCode) : Prop := code.excludedByChecks = false

/-- The one code a stage of a checked CORE raises, and only where memory is not zeroed (R375). -/
def FaultCode.UndefinedRead (c : Config) (code : FaultCode) : Prop :=
  code = .uninitRead ∧ c.memInit ≠ .zero

namespace Regs

variable {c : Config} {P : FaultCode → Prop} {b r n : Regs c}

/-! ## What an operation records -/

/-- Every record of `n` is one of `b` or carries a code of `P`. -/
def RaisesOnly (P : FaultCode → Prop) (b n : Regs c) : Prop := ∀ f ∈ n.faults, f ∈ b.faults ∨ P f.code

theorem raisesOnly_of_faults_eq (h : n.faults = b.faults) : RaisesOnly P b n :=
  fun _ hf => .inl (h ▸ hf)

theorem raisesOnly_refl (r : Regs c) : RaisesOnly P r r := raisesOnly_of_faults_eq rfl

theorem raisesOnly_raise {code : FaultCode} (hc : P code) (h : RaisesOnly P b n) (info : FaultInfo) :
    RaisesOnly P b (n.raise code info) := fun f hf =>
  (mem_addFault.1 hf).elim (h f) fun e => .inr (e ▸ hc)

theorem raisesOnly_ite {p : Prop} [Decidable p] {m : Regs c} (hm : RaisesOnly P b m)
    (hn : RaisesOnly P b n) : RaisesOnly P b (if p then m else n) := by
  split
  · exact hm
  · exact hn

/-! ## The host's operations: the codes of their own contracts -/

theorem raisesOnly_reachable {code : FaultCode} (hc : code.excludedByChecks = false)
    (info : FaultInfo) : RaisesOnly FaultCode.Reachable r (r.raise code info) :=
  raisesOnly_raise hc (raisesOnly_refl r) info

theorem raisesOnly_badRef (op : Nat) (w : StateRef) :
    RaisesOnly FaultCode.Reachable r (r.badRef op w) := by
  cases w <;> exact raisesOnly_reachable rfl _

theorem raisesOnly_setCoeff (f : CoeffField) (ch prof : Nat) (v : Int) :
    RaisesOnly FaultCode.Reachable r (r.setCoeff f ch prof v) := by
  rcases r.setCoeff_cases f ch prof v with ⟨-, e⟩ | ⟨-, -, -, e⟩ | ⟨-, -, -, e⟩ <;> rw [e]
  · exact raisesOnly_reachable rfl _
  · exact raisesOnly_reachable rfl _
  · exact raisesOnly_refl r

theorem raisesOnly_getCoeff (f : CoeffField) (ch prof : Nat) :
    RaisesOnly FaultCode.Reachable r (r.getCoeff f ch prof) := by
  unfold getCoeff
  split
  · split
    · exact raisesOnly_refl r
    · exact raisesOnly_reachable rfl _
  · exact raisesOnly_reachable rfl _

theorem raisesOnly_setState (w : StateRef) (v : Int) :
    RaisesOnly FaultCode.Reachable r (r.setState w v) := by
  rcases r.setState_cases w v with ⟨-, e⟩ | ⟨-, -, e⟩ | ⟨-, -, e⟩ <;> rw [e]
  · exact raisesOnly_badRef 2 w
  · exact raisesOnly_reachable rfl _
  · exact raisesOnly_refl r

theorem raisesOnly_getState (w : StateRef) : RaisesOnly FaultCode.Reachable r (r.getState w) := by
  rcases r.getState_cases w with ⟨-, e⟩ | ⟨-, -, e⟩ | ⟨-, -, _, -, e⟩ | ⟨-, -, -, e⟩ <;> rw [e]
  · exact raisesOnly_badRef 3 w
  · exact raisesOnly_reachable rfl _
  · exact raisesOnly_refl r
  · exact raisesOnly_reachable rfl _

theorem raisesOnly_setCtrl (ch prof : Nat) (enOut enIir : Bool) :
    RaisesOnly FaultCode.Reachable r (r.setCtrl ch prof enOut enIir) := by
  rcases r.setCtrl_cases ch prof enOut enIir with ⟨-, e⟩ | ⟨_, -, -, e⟩ | ⟨-, -, -, e⟩ <;> rw [e]
  · exact raisesOnly_reachable rfl _
  · exact raisesOnly_refl r
  · exact raisesOnly_reachable rfl _

/-! ## The engine's ports: an undefined read -/

theorem raisesOnly_loadSd (h : RaisesOnly (FaultCode.UndefinedRead c) b n) (a : Nat) :
    RaisesOnly (FaultCode.UndefinedRead c) b (r.loadSd n a) := by
  rcases r.loadSd_cases n a with ⟨_, -, e⟩ | ⟨hr, e⟩ <;> rw [e]
  · exact h
  · exact raisesOnly_raise (code := .uninitRead) ⟨rfl, Mem.ne_zero_of_read_eq_none hr⟩ h _

/-- An undefined word of `CM` is an undefined half, which zeroed memory has not. -/
theorem undefinedRead_of_coefRead {a : Nat} (h : r.coefRead a = none) :
    FaultCode.UndefinedRead c .uninitRead :=
  ⟨rfl, (coefRead_eq_none r).1 h |>.elim Mem.ne_zero_of_read_eq_none Mem.ne_zero_of_read_eq_none⟩

theorem raisesOnly_fetch (h : RaisesOnly (FaultCode.UndefinedRead c) b n) (word : Fin 4) :
    RaisesOnly (FaultCode.UndefinedRead c) b (r.fetch n word) := by
  rcases r.fetch_cases n word with ⟨-, e⟩ | ⟨-, _, -, e⟩ | ⟨-, hr, e⟩ <;> rw [e]
  · exact h
  · exact h
  · exact raisesOnly_raise (undefinedRead_of_coefRead hr) h _

theorem raisesOnly_fetchLast (h : RaisesOnly (FaultCode.UndefinedRead c) b n) :
    RaisesOnly (FaultCode.UndefinedRead c) b (r.fetchLast n) := by
  rcases r.fetchLast_cases n with ⟨-, e⟩ | ⟨-, _, -, e⟩ | ⟨-, hr, e⟩ <;> rw [e]
  · exact h
  · exact h
  · exact raisesOnly_raise (undefinedRead_of_coefRead hr) h _

theorem raisesOnly_calcP0 (h : RaisesOnly (FaultCode.UndefinedRead c) b n) :
    RaisesOnly (FaultCode.UndefinedRead c) b (r.calcP0 n) :=
  raisesOnly_ite (raisesOnly_loadSd (r := r) h _) h

theorem raisesOnly_calcP1 (h : RaisesOnly (FaultCode.UndefinedRead c) b n) :
    RaisesOnly (FaultCode.UndefinedRead c) b (r.calcP1 n) :=
  raisesOnly_ite (raisesOnly_loadSd (r := r) h _) h

theorem raisesOnly_calcP2 (h : RaisesOnly (FaultCode.UndefinedRead c) b n) :
    RaisesOnly (FaultCode.UndefinedRead c) b (r.calcP2 n) :=
  raisesOnly_ite (raisesOnly_loadSd (r := r) h _) h

/-- Phase 3 reads no state word. -/
theorem calcP3_faults (r n : Regs c) : (r.calcP3 n).faults = n.faults := by
  cases h : r.calculates with
  | false => rw [(r.calc_of_not n h).2.2.2]
  | true => exact (r.calcP3_of n h).2.2.1

/-! ## Micro-operations that raise nothing -/

theorem doIdleWait_faults (r : Regs c) : r.doIdleWait.faults = r.faults := by
  unfold doIdleWait
  split <;> rfl

theorem doLoadSx_faults (hst : r.filtStart = false) (hrd : r.reading = false) :
    r.doLoadSx.faults = r.faults := by
  simp [doLoadSx, walkLoad, filtBusyStart_of_not r hst, hrd]

end Regs
end Sys2Proof.Machine

namespace Sys2Proof.Laws

open Sys2Proof.Machine Sys2Proof.Machine.Regs

variable {c : Config} {r : Regs c}

/-! ## The host's part of a tick -/

theorem encode_call (call : HostCall) : ∃ sel v, encode c call.instr = .hostop sel v := by
  cases call with
  | setCoeff => exact ⟨_, _, encode_setCoeff _⟩
  | getCoeff => exact ⟨_, _, encode_getCoeff _⟩
  | setState => exact ⟨_, _, encode_setState _⟩
  | getState => exact ⟨_, _, encode_getState _⟩
  | setCtrl => exact ⟨_, _, rfl⟩

/-- A host operation stands for an instruction of the HOSTOP format, never for a micro-operation. -/
theorem encode_of_instr {op : HostOp c} {i : Instr} (h : op.instr = .ok i) :
    ∃ sel v, encode c i = .hostop sel v := by
  cases op with
  | word sel v =>
    simp only [HostOp.instr] at h
    split at h <;> cases h
    next hd => exact ⟨sel, (encode_of_decodeHostop hd).2⟩
  | call call => cases h; exact encode_call call
  | named n =>
    simp only [HostOp.instr] at h
    split at h <;> cases h
    exact encode_call _

theorem raisesOnly_act_hostop {i : Instr} {sel : BitVec c.selW} {v : Int}
    (h : encode c i = .hostop sel v) : RaisesOnly FaultCode.Reachable r (act i r) := by
  cases i with
  | setCoeffFtw1 | setCoeffB1 | setCoeffPow | setCoeffCfg | setCoeffOffset | setCoeffA1
  | setCoeffFtw0 | setCoeffB0 => exact raisesOnly_setCoeff _ _ _ _
  | getCoeffFtw1 | getCoeffB1 | getCoeffPow | getCoeffCfg | getCoeffOffset | getCoeffA1
  | getCoeffFtw0 | getCoeffB0 => exact raisesOnly_getCoeff _ _ _
  | setStateY1 | setStateX0 | setStateX1 => exact raisesOnly_setState _ _
  | getStateY1 | getStateX0 | getStateX1 => exact raisesOnly_getState _
  | setCtrl => exact raisesOnly_setCtrl _ _ _ _
  | _ => cases h

theorem raisesOnly_hostAct : RaisesOnly FaultCode.Reachable r (hostAct r) := by
  unfold hostAct
  split
  · exact raisesOnly_refl r
  · split
    next hi =>
      obtain ⟨_, _, h⟩ := encode_of_instr hi
      exact raisesOnly_act_hostop h
    next => exact raisesOnly_reachable rfl _

/-! ## The stages' parts of a tick: no start is refused (R296) and no sample is invalid (R301) -/

theorem act_acqOp_faults (hi : Inv ⟨c, r⟩) : (act r.acqOp r).faults = r.faults := by
  by_cases hs : r.acq.state = .idle
  · cases hst : r.acqStart <;> simp [acqOp, hs, act, doAcqIdle, hst]
  · have hst : r.acqBusyStart = r :=
      acqBusyStart_of_not r (Bool.eq_false_iff.2 (mt (acq_idle_of_acqStart hi) hs))
    unfold acqOp
    cases h : r.acq.state with
    | idle => exact absurd h hs
    | cnvh | conv | read => simp [act, acqCount_eq, hst]
    | rtt => by_cases hc : r.acq.cnt = 0 <;> simp [act, doAcqRtt, hst, hc]

theorem act_outOp_faults (hi : Inv ⟨c, r⟩) : (act r.outOp r).faults = r.faults := by
  cases hb : r.out.busy with
  | false => cases hst : r.outStart <;> simp [outOp, hb, act, doOutStart, hst]
  | true =>
    have hst : r.outStart = false :=
      Bool.eq_false_iff.2 fun h => by simp [out_idle_of_outStart hi h] at hb
    by_cases hc : r.out.cnt = 0 <;> simp [outOp, hb, act, doOutBusy, hst, hc]

/-- While LOAD takes its samples the acquisition does not read: the one under way has not come to its
reading yet (R301). -/
theorem reading_eq_false_of_load (hi : Inv ⟨c, r⟩) (hs : r.filt.state = .load)
    (hk : r.filt.k % 2 = 0) : r.reading = false := by
  obtain ⟨hv, -, hc, hacq, -, hfilt, -⟩ := inv_iff.1 hi
  by_contra hr
  rw [Bool.not_eq_false] at hr
  have hbusy : r.acq.state ≠ .idle := fun h => by simp [h] at hr
  have hread := (reading_iff_acqPos hv hc hbusy).1 hr
  have hbound := acqPos_bounds hv hc hbusy
  have hacqNow := hacq hbusy
  have hfiltNow := hfilt (by simp [hs])
  have hn : 0 < c.nCh := Nat.two_pow_pos _
  have hpos : r.filtPos = 1 + r.filt.k := by simp [filtPos, hs]
  have hwalk : r.filt.k ≤ 2 * c.nCh - 1 := by simpa [hs, walkLast] using ((countersOk_iff r).1 hc).2.1
  have htAcq : c.tAcq = c.acq.tCnvh + c.acq.tConv + c.tRead + c.acq.tRtt := rfl
  have hcycle := Config.read_add_load_le_tCycle hv
  omega

theorem raisesOnly_act_engineOp (hi : Inv ⟨c, r⟩) :
    RaisesOnly (FaultCode.UndefinedRead c) r (act r.engineOp r) := by
  by_cases hs : r.filt.state = .idle
  · simp only [engineOp, hs]
    exact raisesOnly_of_faults_eq (doIdleWait_faults r)
  · have hst : r.filtStart = false := Bool.eq_false_iff.2 (mt (filt_idle_of_filtStart hi) hs)
    have hbusy : RaisesOnly (FaultCode.UndefinedRead c) r r.filtBusyStart := by
      rw [filtBusyStart_of_not r hst]
      exact raisesOnly_refl r
    unfold engineOp
    cases h : r.filt.state with
    | idle => exact absurd h hs
    | load =>
      dsimp only
      split
      next hk => exact raisesOnly_of_faults_eq (doLoadSx_faults hst (reading_eq_false_of_load hi h hk))
      next => exact hbusy
    | process =>
      dsimp only
      split
      · exact raisesOnly_calcP0 (r := r) (raisesOnly_fetch (r := r) hbusy 0)
      · split
        · exact raisesOnly_calcP1 (r := r) (raisesOnly_fetch (r := r) hbusy 1)
        · split
          · exact raisesOnly_calcP2 (r := r) (raisesOnly_fetch (r := r) hbusy 2)
          · intro f hf
            exact raisesOnly_fetchLast (r := r) hbusy f (calcP3_faults r _ ▸ hf)
    | shift =>
      dsimp only
      split
      · exact raisesOnly_loadSd (r := r) hbusy _
      · exact hbusy

/-! ## A tick -/

/-- A tick's new records are the host's, or of an undefined read. -/
theorem mem_faults_tickAct {f : FaultRec} (hi : Inv ⟨c, r⟩) (hf : f ∈ (tickAct r).faults) :
    f ∈ r.faults ∨ f ∈ (hostAct r).faults ∨ FaultCode.UndefinedRead c f.code := by
  rw [tickAct_faults, act_acqOp_faults hi, act_outOp_faults hi] at hf
  simp only [mem_addFaults, List.mem_append] at hf
  rcases hf with h | ((h | h) | h) | h
  · exact .inl h
  · exact .inr (.inl h)
  · exact .inl h
  · exact (raisesOnly_act_engineOp hi f h).imp_right .inr
  · exact .inl h

theorem raisesOnly_tickAct (hi : Inv ⟨c, r⟩) : RaisesOnly FaultCode.Reachable r (tickAct r) := by
  intro f hf
  rcases mem_faults_tickAct hi hf with h | h | ⟨h, -⟩
  · exact .inl h
  · exact raisesOnly_hostAct f h
  · exact .inr (by rw [h]; rfl)

/-- With memories zeroed and no host operation a tick raises nothing. -/
theorem faults_tickAct_of_quiet (hi : Inv ⟨c, r⟩) (hz : c.memInit = .zero) (hf : r.faults = [])
    (hop : r.inp.op = none) : (tickAct r).faults = [] := by
  refine List.eq_nil_iff_forall_not_mem.2 fun f h => ?_
  have hmem := mem_faults_tickAct hi h
  rw [hostAct_of_none hop, hf] at hmem
  rcases hmem with h | h | ⟨-, h⟩
  · exact List.not_mem_nil h
  · exact List.not_mem_nil h
  · exact h hz

end Sys2Proof.Laws

namespace Sys2Proof.Proofs

open Sys2Proof.Machine Sys2Proof.Laws

/-- Settles O3, by the cases of a step: only a tick records anything. -/
theorem checkedConfigurationsNeverStartABusyStage :
    Obligations.CheckedConfigurationsNeverStartABusyStage := by
  rintro ⟨c, r⟩ t hi hstep f hf
  have hpresent : ∀ inp rest, Inv ⟨c, r.present inp rest⟩ := fun _ _ => hi
  rcases step_cases hstep with ⟨inp, rest, -, -, rfl⟩ | ⟨inp, rest, -, -, rfl⟩ | ⟨rest, -, rfl⟩ |
    ⟨rest, -, rfl⟩
  · exact .inl hf
  · exact raisesOnly_tickAct (hpresent inp rest) f hf
  · exact absurd hf List.not_mem_nil
  · exact absurd hf List.not_mem_nil

end Sys2Proof.Proofs
end

section
/-! PROOFS. A CORE with zeroed memories and no host operations runs for ever (43_scheduler.md rules R296,
R301, 60_exceptions.md rule R375). -/

namespace Sys2Proof.Laws

open Sys2Proof.Machine

variable {c : Config} {r : Regs c}

/-- What a run without host operations keeps: the invariant, the quiet environment, and no fault. -/
def QuietRun (r : Regs c) : Prop := Inv ⟨c, r⟩ ∧ r.NoHostOps ∧ r.faults = []

theorem nextEvent_of_noHostOps (h : r.NoHostOps) : ∃ inp rest, r.nextEvent = (.tick inp, rest) ∧
    inp.op = none ∧ ∀ e ∈ rest, ∃ inp, e = Event.tick inp ∧ inp.op = none := by
  cases hs : r.script with
  | nil => exact ⟨_, _, nextEvent_of_nil hs, rfl, fun _ h' => absurd h' List.not_mem_nil⟩
  | cons e rest =>
    obtain ⟨inp, rfl, hop⟩ := h e (hs ▸ List.mem_cons_self)
    exact ⟨inp, rest, nextEvent_of_cons hs, hop, fun e' h' => h e' (hs ▸ List.mem_cons_of_mem _ h')⟩

theorem quietRun_step (hz : c.memInit = .zero) (h : QuietRun r) :
    ∃ t : Regs c, step ⟨c, r⟩ = .next ⟨c, t⟩ ∧ QuietRun t := by
  obtain ⟨hi, hquiet, hf⟩ := h
  obtain ⟨hv, -⟩ := inv_iff.1 hi
  obtain ⟨inp, rest, he, hop, hrest⟩ := nextEvent_of_noHostOps hquiet
  have hstep := step_tick hv hf he
  exact ⟨_, hstep, inv_step hi hstep, hrest,
    faults_tickAct_of_quiet (r := r.present inp rest) hi hz hf hop⟩

theorem quietRun_run (hz : c.memInit = .zero) (n : Nat) (h : QuietRun r) :
    ∃ t : Regs c, Sys2Proof.core.run n ⟨c, r⟩ = .next ⟨c, t⟩ ∧ QuietRun t := by
  induction n generalizing r with
  | zero => exact ⟨r, rfl, h⟩
  | succ n ih =>
    obtain ⟨u, hstep, hu⟩ := quietRun_step hz h
    obtain ⟨t, hrun, ht⟩ := ih hu
    exact ⟨t, run_succ.2 ⟨_, hstep, hrun⟩, ht⟩

end Sys2Proof.Laws

namespace Sys2Proof.Proofs

open Sys2Proof.Machine Sys2Proof.Laws

/-- Settles O4, by induction on the number of steps, each of which stays quiet. -/
theorem quietZeroedMachineNeverFaults : Obligations.QuietZeroedMachineNeverFaults := by
  rintro ⟨c, r⟩ n hi hz hquiet hf
  obtain ⟨t, hrun, -, -, ht⟩ := quietRun_run hz n ⟨hi, hquiet, hf⟩
  exact ⟨_, hrun, ht⟩

end Sys2Proof.Proofs
end

section
/-! PROOFS. The host operations (44_host_interface.md): what each does when its operands are in range and
its contract is met, a write read back in the next tick (rules R324, R330), and a tick whose host
operation is refused (rule R337). -/

namespace Sys2Proof

variable {c : Config} {f g : CoeffField}

/-! ## Where a field lies (R82) -/

theorem idx_inj (h9 : c.holds .cf9 = true) (h : c.idx f = c.idx g) : f = g :=
  Option.some.inj (by rw [← fieldAt_idx c h9 f, h, fieldAt_idx c h9 g])

end Sys2Proof

namespace Sys2Proof.Machine

variable {c : Config} {f g : CoeffField}

/-- Word and half of a field are its index. -/
theorem wordOf_isHigh_inj {a b : BitVec 3} (hw : wordOf a = wordOf b)
    (hh : isHigh a = isHigh b) : a = b := by
  apply BitVec.eq_of_toNat_eq
  rw [isHigh_eq, isHigh_eq, decide_eq_decide] at hh
  unfold wordOf at hw
  omega

namespace Regs

variable {r : Regs c} {ch prof : Nat} {w : StateRef}

/-- Two fields of a pair never share a half of a word. -/
theorem coeffAddr_isHigh_inj (h9 : c.holds .cf9 = true) (hp : prof < 2 ^ c.P)
    (ha : coeffAddr c ch prof f = coeffAddr c ch prof g) (hh : isHigh (c.idx f) = isHigh (c.idx g)) :
    f = g := by
  obtain ⟨-, -, hw⟩ := cmAddr_inj hp hp (wordOf_lt _) (wordOf_lt _) ha
  exact idx_inj h9 (wordOf_isHigh_inj hw hh)

theorem coeffAddr_eq (hp : prof < 2 ^ c.P) (f : CoeffField) :
    coeffAddr c ch prof f = ch * 2 ^ (c.P + 2) + prof * 4 + (c.idx f).toNat / 2 :=
  cmAddr_eq hp (wordOf_lt _)

/-! ## Coefficients (R322, R323) -/

theorem pairActive_iff {i : Fin c.nCh} :
    r.pairActive i prof = true ↔ r.filt.state = .process ∧ prof = r.filt.lat[i].profile.toNat := by
  simp only [pairActive, processing, Bool.and_eq_true, beq_iff_eq]

theorem setCoeff_of_not_pairActive {i : Fin c.nCh} (hp : prof < 2 ^ c.P)
    (ha : r.pairActive i prof = false) (f : CoeffField) (v : Int) :
    r.setCoeff f i.val prof v =
      r.cmWriteHalf (coeffAddr c i.val prof f) (isHigh (c.idx f)) (trunc c.K v) := by
  rcases r.setCoeff_cases f i.val prof v with ⟨h, -⟩ | ⟨_, -, h, -⟩ | ⟨-, -, -, h⟩
  · exact absurd ⟨i.isLt, hp⟩ h
  · rw [ha] at h; cases h
  · exact h

/-- A `set_coefficient` that raises nothing had its operands in range and made its write. -/
theorem setCoeff_of_faults_eq_nil {v : Int} (h : (r.setCoeff f ch prof v).faults = []) :
    ch < c.nCh ∧ prof < 2 ^ c.P ∧ r.setCoeff f ch prof v =
      r.cmWriteHalf (coeffAddr c ch prof f) (isHigh (c.idx f)) (trunc c.K v) := by
  rcases r.setCoeff_cases f ch prof v with ⟨-, e⟩ | ⟨-, -, -, e⟩ | ⟨hc, hp, -, e⟩
  · rw [e] at h; exact absurd h (addFault_ne_nil _ _)
  · rw [e] at h; exact absurd h (addFault_ne_nil _ _)
  · exact ⟨hc, hp, e⟩

theorem getCoeff_of_cmHalf {v : BitVec c.K} (hc : ch < c.nCh) (hp : prof < 2 ^ c.P)
    (h : r.cmHalf (coeffAddr c ch prof f) (isHigh (c.idx f)) = some v) :
    r.getCoeff f ch prof = r.putHrd (some (.coeff v)) := by
  rw [getCoeff, if_pos ⟨hc, hp⟩, h]

/-! ## State words (R328, R329) -/

theorem setState_of_not_engineWritesSm (hw : refOk c w = true) (he : r.engineWritesSm = false) (v : Int) :
    r.setState w v = r.stWrite (smAddr c w) (trunc c.S v) := by
  simp [setState, hw, he]

/-- A `set_state` that raises nothing named a word there is, met no write of the engine, and made its
own. -/
theorem setState_of_faults_eq_nil {v : Int} (h : (r.setState w v).faults = []) :
    refOk c w = true ∧ r.engineWritesSm = false ∧
      r.setState w v = r.stWrite (smAddr c w) (trunc c.S v) := by
  rcases r.setState_cases w v with ⟨-, e⟩ | ⟨-, -, e⟩ | hwrite
  · rw [e] at h
    cases w <;> exact absurd h (addFault_ne_nil _ _)
  · rw [e] at h; exact absurd h (addFault_ne_nil _ _)
  · exact hwrite

theorem getState_of_stRead {v : BitVec c.S} (hw : refOk c w = true) (hl : r.filt.state ≠ .load)
    (hs : r.filt.state ≠ .shift) (h : r.stRead (smAddr c w) = some v) :
    r.getState w = r.putHrd (some (.state v)) := by
  simp [getState, hw, loading, shifting, hl, hs, h]

end Regs
end Sys2Proof.Machine

namespace Sys2Proof.Laws

open Sys2Proof.Machine Sys2Proof.Machine.Regs

variable {c : Config} {r : Regs c} {w : StateRef}

/-! ## The operations as instructions -/

theorem act_setCoeff (f : CoeffField) (ch prof : Nat) (v : Int) :
    act (.setCoeff f ch prof v) r = r.setCoeff f ch prof v := by
  cases f <;> rfl

theorem act_getCoeff (f : CoeffField) (ch prof : Nat) :
    act (.getCoeff f ch prof) r = r.getCoeff f ch prof := by
  cases f <;> rfl

theorem act_setState (w : StateRef) (v : Int) : act (.setState w v) r = r.setState w v := by
  cases w <;> rfl

theorem act_getState (w : StateRef) : act (.getState w) r = r.getState w := by
  cases w <;> rfl

/-- `set_state` of a word there is writes that word of `SM` alone. -/
theorem exec_setState_writes (hw : refOk c w = true) (he : r.engineWritesSm = false)
    (hwf : r.sm.wf c.memInit = true) (v : Int) :
    ∃ m : Mem c.S, exec (.setState w v) ⟨c, r⟩ = .next ⟨c, { r with sm := m }⟩ ∧
      ∀ a, m.read c.memInit a = if a = smAddr c w then some (BitVec.ofInt c.S v) else r.stRead a :=
  ⟨_, by rw [exec_setState, setState_of_not_engineWritesSm hw he]; rfl,
    fun a => Mem.read_write r.sm hwf _ a _⟩

/-- Outside LOAD and SHIFT `get_state` of a defined word puts it out and does nothing else. -/
theorem exec_getState_of_stRead {v : BitVec c.S} (hw : refOk c w = true) (hl : r.filt.state ≠ .load)
    (hs : r.filt.state ≠ .shift) (h : r.stRead (smAddr c w) = some v) :
    exec (.getState w) ⟨c, r⟩ =
      .next ⟨c, { r with outs := { r.outs with hrd := some (.state v) } }⟩ := by
  rw [exec_getState, getState_of_stRead hw hl hs h]
  rfl

/-! ## The host's part of a tick -/

theorem hostAct_of_call {call : HostCall} (h : r.inp.op = some (.call call)) :
    hostAct r = act call.instr r :=
  hostAct_of_instr h rfl

/-- What the host's part records the tick records. -/
theorem mem_faults_tickAct_of_hostAct {x : FaultRec} (h : x ∈ (hostAct r).faults) :
    x ∈ (tickAct r).faults := by
  simp [mem_addFaults, h]

theorem hostAct_faults_eq_nil (h : (tickAct r).faults = []) : (hostAct r).faults = [] :=
  List.eq_nil_iff_forall_not_mem.2 fun _ hx =>
    List.not_mem_nil (h ▸ mem_faults_tickAct_of_hostAct hx)

/-- A step that takes a host call and ends without a fault is a tick in which the call raised none. -/
theorem eq_tickAct_of_call {t : Regs c} {inp : TickInput c} {rest : List (Event c)} {call : HostCall}
    (hf : r.faults = []) (hscript : r.script = .tick inp :: rest) (hop : inp.op = some (.call call))
    (hstep : step ⟨c, r⟩ = .next ⟨c, t⟩) (ht : t.faults = []) :
    t = tickAct (r.present inp rest) ∧
      hostAct (r.present inp rest) = act call.instr (r.present inp rest) ∧
      (act call.instr (r.present inp rest)).faults = [] := by
  rw [step_tick (valid_of_step hstep) hf (nextEvent_of_cons hscript)] at hstep
  cases hstep
  have hhost := hostAct_of_call (r := r.present inp rest) hop
  exact ⟨rfl, hhost, hhost ▸ hostAct_faults_eq_nil ht⟩

/-- A call that puts a value out in its tick puts it out in the step. -/
theorem exists_step_hrd_of_call {inp : TickInput c} {rest : List (Event c)} {call : HostCall}
    {d : Option (HostData c)} (hv : c.valid = true) (hf : r.faults = [])
    (hscript : r.script = .tick inp :: rest) (hop : inp.op = some (.call call))
    (hact : act call.instr (r.present inp rest) = (r.present inp rest).putHrd d) :
    ∃ u : Regs c, step ⟨c, r⟩ = .next ⟨c, u⟩ ∧ u.outs.hrd = d := by
  refine ⟨_, step_tick hv hf (nextEvent_of_cons hscript), ?_⟩
  rw [tickAct_outs, hostAct_of_call (r := r.present inp rest) hop, hact]
  rfl

/-! ## A refused host operation (R337) -/

/-- The stages' parts of a tick do not depend on its host operation. -/
theorem tickAct_withOp_eq_commit (r : Regs c) (op : Option (HostOp c)) :
    tickAct (r.withOp op) = commit (r.withOp op) (hostAct (r.withOp op))
      ((act r.acqOp r).withOp op) ((act r.engineOp r).withOp op) ((act r.outOp r).withOp op) := by
  rw [← act_acqOp_withOp, ← act_engineOp_withOp, ← act_outOp_withOp]
  rfl

/-- A host operation that stands for no instruction leaves what the tick without one leaves, but for
the records. -/
theorem tickAct_of_refused {op : HostOp c} {info : FaultInfo} (h : op.instr = .error info)
    (r : Regs c) :
    hostAct (r.withOp (some op)) = (r.withOp (some op)).raise .hostBadOp info ∧
    { tickAct (r.withOp (some op)) with
      faults := (tickAct (r.withOp none)).faults, inp := (tickAct (r.withOp none)).inp } =
        tickAct (r.withOp none) := by
  have hhost : hostAct (r.withOp (some op)) = (r.withOp (some op)).raise .hostBadOp info := by
    simp [hostAct, withOp, h]
  refine ⟨hhost, ?_⟩
  rw [tickAct_withOp_eq_commit, tickAct_withOp_eq_commit, hhost]
  rfl

theorem instr_of_word_error {sel : BitVec c.selW} {v : Int} {e : DecodeError}
    (h : decode c (.hostop sel v) = .error e) :
    (HostOp.word sel v).instr = .error (.selector sel.toNat) := by
  rw [decode] at h
  simp [HostOp.instr, h]

end Sys2Proof.Laws

namespace Sys2Proof.Proofs

open Sys2Proof.Machine Sys2Proof.Machine.Regs Sys2Proof.Laws

/-- Settles O41: the write is of one cell, and no two halves share a cell. -/
theorem setCoefficientWritesOneHalf : Obligations.SetCoefficientWritesOneHalf := by
  intro c r f ch prof v hp hactive hwf
  have ha : r.pairActive ch prof = false := Bool.eq_false_iff.2 (mt pairActive_iff.1 hactive)
  refine ⟨_, by rw [exec_setCoeff, setCoeff_of_not_pairActive hp ha]; rfl, fun addr high => ?_⟩
  rw [← coeffAddr_eq hp, ← isHigh_eq]
  exact cmHalf_cmWriteHalf r hwf _ addr _ high _

/-- Settles O43: the operands are in range and the half is defined, whatever the engine does. -/
theorem getCoefficientReturnsTheHalf : Obligations.GetCoefficientReturnsTheHalf := by
  intro c r f ch prof v hp hread
  rw [← coeffAddr_eq hp, ← isHigh_eq] at hread
  rw [exec_getCoeff, getCoeff_of_cmHalf ch.isLt hp hread]
  rfl

/-- Settles O44: a tick without a fault made the write, and the other fields lie in other halves. -/
theorem coefficientRoundTrip : Obligations.CoefficientRoundTrip := by
  intro c r t i1 i2 rest f ch prof v hv hf hwf hscript hop1 hop2 hstep ht
  obtain ⟨rfl, hhost, hquiet⟩ := eq_tickAct_of_call hf hscript hop1 hstep ht
  rw [HostCall.instr, act_setCoeff] at hhost hquiet
  obtain ⟨hc, hp, hset⟩ := setCoeff_of_faults_eq_nil hquiet
  have hread : ∀ addr high, (tickAct (r.present i1 (.tick i2 :: rest))).cmHalf addr high =
      if addr = coeffAddr c ch prof f ∧ high = isHigh (c.idx f) then some (trunc c.K v)
      else r.cmHalf addr high := fun addr high => by
    rw [cmHalf, tickAct_cm, hhost, hset]
    exact cmHalf_cmWriteHalf r hwf _ addr _ high _
  refine ⟨exists_step_hrd_of_call hv ht rfl hop2 ?_, fun g hg => ?_⟩
  · rw [HostCall.instr, act_getCoeff]
    exact getCoeff_of_cmHalf hc hp ((hread _ _).trans (if_pos ⟨rfl, rfl⟩))
  · exact (hread _ _).trans (if_neg fun ⟨ha, hh⟩ =>
      hg (coeffAddr_isHigh_inj (Config.holds_of_valid hv .cf9) hp ha hh))

/-- Settles O45, word kind by word kind, each at its address of R85. -/
theorem setStateWritesOneWord : Obligations.SetStateWritesOneWord := by
  intro c r ch prof v hp he hwf
  rw [← smY1_eq ch.isLt, ← smX0_eq ch.isLt, ← smX1_eq ch.isLt]
  have hch : decide (ch.val < c.nCh) = true := decide_eq_true ch.isLt
  exact ⟨exec_setState_writes (w := .y1 ch.val prof) (by simp [refOk, hp]) he hwf v,
    exec_setState_writes (w := .x0 ch.val) hch he hwf v,
    exec_setState_writes (w := .x1 ch.val) hch he hwf v⟩

/-- Settles O47, word kind by word kind, each at its address of R85. -/
theorem getStateReturnsTheWord : Obligations.GetStateReturnsTheWord := by
  intro c r ch prof v hp hl hs
  rw [← smY1_eq ch.isLt, ← smX0_eq ch.isLt, ← smX1_eq ch.isLt]
  have hch : decide (ch.val < c.nCh) = true := decide_eq_true ch.isLt
  exact ⟨exec_getState_of_stRead (w := .y1 ch.val prof) (by simp [refOk, hp]) hl hs,
    exec_getState_of_stRead (w := .x0 ch.val) hch hl hs,
    exec_getState_of_stRead (w := .x1 ch.val) hch hl hs⟩

/-- Settles O49: a tick without a fault made the write, and the engine made none. -/
theorem stateRoundTrip : Obligations.StateRoundTrip := by
  intro c r t i1 i2 rest w v hv hf hwf hscript hop1 hop2 hstep ht hl hs
  obtain ⟨rfl, hhost, hquiet⟩ := eq_tickAct_of_call hf hscript hop1 hstep ht
  rw [HostCall.instr, act_setState] at hhost hquiet
  obtain ⟨hw, he, hset⟩ := setState_of_faults_eq_nil hquiet
  have hread : (tickAct (r.present i1 (.tick i2 :: rest))).stRead (smAddr c w) =
      some (trunc c.S v) := by
    rw [stRead, tickAct_sm, he, hhost, hset]
    exact (stRead_stWrite r hwf _ _ _).trans (if_pos rfl)
  refine exists_step_hrd_of_call hv ht rfl hop2 ?_
  rw [HostCall.instr, act_getState]
  exact getState_of_stRead hw hl hs hread

/-- Settles O53: both ticks are those of one state with a host operation put in, and the refused one
only adds its record. -/
theorem illegalSelectorHasNoOtherEffect : Obligations.IllegalSelectorHasNoOtherEffect := by
  intro c r inp rest sel v e hv hf hdec
  have tick : ∀ op, step ⟨c, { r with script := .tick { inp with op := op } :: rest }⟩ =
      .next ⟨c, tickAct ((r.present inp rest).withOp op)⟩ :=
    fun op => step_tick hv hf (nextEvent_of_cons rfl)
  obtain ⟨hhost, hrest⟩ := tickAct_of_refused (instr_of_word_error hdec) (r.present inp rest)
  refine ⟨_, _, tick _, tick _, mem_faults_tickAct_of_hostAct ?_, ?_, ?_, ?_, hrest⟩
  · rw [hhost]; exact mem_addFault.2 (.inr rfl)
  · rw [tickAct_ctrl, hhost]; rfl
  · rw [tickAct_cm, hhost]; rfl
  · rw [tickAct_outs, hhost]; rfl

/-- Settles O59: each word is one the decoder reads by evaluation. -/
theorem tabledWordsDecode : Obligations.TabledWordsDecode := by
  unfold Obligations.TabledWordsDecode
  decide

end Sys2Proof.Proofs
end

section
/-! PROOFS. Where no tick takes place (60_exceptions.md rules R361, R362, R367): a configuration that
fails a check, and a halted CORE. -/

namespace Sys2Proof.Config

/-- The list of failed checks is the list of exactly those that do not hold. -/
theorem mem_failedChecks {c : Config} {k : Check} : k ∈ c.failedChecks ↔ c.holds k = false := by
  have hall : k ∈ [Check.cf1, .cf2, .cf3, .cf4, .cf5, .cf6, .cf7, .cf8, .cf9] := by
    cases k <;> decide
  rw [failedChecks, List.mem_filter, and_iff_right hall, Bool.not_eq_true']

end Sys2Proof.Config

namespace Sys2Proof.Laws

open Sys2Proof.Machine

/-- A configuration with a failed check stops the step with the list of them. -/
theorem step_of_failedChecks {c : Config} {r : Regs c} (h : c.failedChecks ≠ []) :
    step ⟨c, r⟩ = .fault (.configuration c.failedChecks) := by
  have hv : ¬ c.valid = true := mt of_decide_eq_true h
  rw [step_eq, if_neg hv]

end Sys2Proof.Laws

namespace Sys2Proof.Proofs

open Sys2Proof.Machine Sys2Proof.Laws

/-- Settles O11: a halted CORE only has the inputs presented to it. -/
theorem haltedCoreKeepsItsState : Obligations.HaltedCoreKeepsItsState :=
  fun _ _ _ _ hv hf he => step_halted hv hf he

/-- Settles O12: the failed check stands in the list, so the configuration is not valid. -/
theorem refusedConfigurationHasNoTick : Obligations.RefusedConfigurationHasNoTick := by
  intro c r ⟨k, hk⟩
  have hne : c.failedChecks ≠ [] := List.ne_nil_of_mem (Config.mem_failedChecks.2 hk)
  exact ⟨step_of_failedChecks hne, hne, fun _ => Config.mem_failedChecks⟩

/-- Settles O60: each row of the table is one the checks decide by evaluation. -/
theorem configurationChecksRefuseTheTabledChanges :
    Obligations.ConfigurationChecksRefuseTheTabledChanges := by
  unfold Obligations.ConfigurationChecksRefuseTheTabledChanges
  decide

end Sys2Proof.Proofs
end

section
/-! PROOFS. A start that reaches a busy stage (60_exceptions.md rules R366, R374): its record, and beside
it the tick the stage takes without the start. -/

namespace Sys2Proof.Machine.Regs

variable {c : Config} {r m n m' n' : Regs c} {f : FaultRec}

/-! ## A record carried beside the engine's updates -/

/-- `m` has the record `f`, and beside it the engine's registers and `SM` as in `n`. -/
def RecordedBeside (f : FaultRec) (m n : Regs c) : Prop :=
  m.filt = n.filt ∧ m.sm = n.sm ∧ f ∈ m.faults

theorem recordedBeside_raise (h : RecordedBeside f m n) (code : FaultCode) (info : FaultInfo) :
    RecordedBeside f (m.raise code info) (n.raise code info) := by
  obtain ⟨hfilt, hsm, hrec⟩ := h
  exact ⟨hfilt, hsm, mem_addFault.2 (.inl hrec)⟩

theorem recordedBeside_update (h : RecordedBeside f m n) (g : FiltRegs c → FiltRegs c) :
    RecordedBeside f { m with filt := g m.filt } { n with filt := g n.filt } :=
  ⟨congrArg g h.1, h.2⟩

theorem recordedBeside_stWrite (h : RecordedBeside f m n) (a : Nat) (v : BitVec c.S) :
    RecordedBeside f (m.stWrite a v) (n.stWrite a v) := by
  obtain ⟨hfilt, hsm, hrec⟩ := h
  exact ⟨hfilt, congrArg (Mem.write c.memInit · a v) hsm, hrec⟩

theorem recordedBeside_ite {p : Prop} [Decidable p] (h' : RecordedBeside f m' n')
    (h : RecordedBeside f m n) :
    RecordedBeside f (if p then m' else m) (if p then n' else n) := by
  split
  · exact h'
  · exact h

theorem recordedBeside_walk (h : RecordedBeside f m n) (last : Nat) (next : FState) :
    RecordedBeside f (r.walk m last next) (r.walk n last next) :=
  recordedBeside_update h fun q => { q with state := _, k := _ }

theorem recordedBeside_loadSd (h : RecordedBeside f m n) (a : Nat) :
    RecordedBeside f (r.loadSd m a) (r.loadSd n a) := by
  unfold loadSd
  cases r.stRead a with
  | some v => exact recordedBeside_update h fun q => { q with sd := v }
  | none => exact recordedBeside_raise h _ _

theorem recordedBeside_fetch (h : RecordedBeside f m n) (word : Fin 4) :
    RecordedBeside f (r.fetch m word) (r.fetch n word) := by
  refine recordedBeside_ite ?_ h
  cases r.coefRead (r.fetchAddr word.val) with
  | some v => exact recordedBeside_update h fun q => { q with cq := q.cq.set word.val v }
  | none => exact recordedBeside_raise h _ _

theorem recordedBeside_fetchLast (h : RecordedBeside f m n) :
    RecordedBeside f (r.fetchLast m) (r.fetchLast n) := by
  refine recordedBeside_ite ?_ h
  cases r.coefRead (r.fetchAddr 3) with
  | some v => exact recordedBeside_update h fun q => { q with cx := r.filt.cq.set 3 v }
  | none => exact recordedBeside_raise h _ _

theorem recordedBeside_calcP0 (h : RecordedBeside f m n) :
    RecordedBeside f (r.calcP0 m) (r.calcP0 n) :=
  recordedBeside_ite (recordedBeside_update (recordedBeside_loadSd (r := r) h _) fun q =>
    { q with acc := _ }) h

theorem recordedBeside_calcP1 (h : RecordedBeside f m n) :
    RecordedBeside f (r.calcP1 m) (r.calcP1 n) :=
  recordedBeside_ite (recordedBeside_update (recordedBeside_loadSd (r := r) h _) fun q =>
    { q with yo := _, acc := _ }) h

theorem recordedBeside_calcP2 (h : RecordedBeside f m n) :
    RecordedBeside f (r.calcP2 m) (r.calcP2 n) :=
  recordedBeside_ite (recordedBeside_update (recordedBeside_loadSd (r := r) h _) fun q =>
    { q with acc := _ }) h

theorem recordedBeside_calcP3 (h : RecordedBeside f m n) :
    RecordedBeside f (r.calcP3 m) (r.calcP3 n) := by
  cases hcalc : r.calculates with
  | false => rw [(r.calc_of_not m hcalc).2.2.2, (r.calc_of_not n hcalc).2.2.2]; exact h
  | true =>
    obtain ⟨hsm, hfilt, hfaults, -⟩ := r.calcP3_of m hcalc
    obtain ⟨hsm', hfilt', -, -⟩ := r.calcP3_of n hcalc
    obtain ⟨hf, hs, hrec⟩ := h
    exact ⟨by rw [hfilt, hfilt', hf], by rw [hsm, hsm', hs], hfaults ▸ hrec⟩

/-! ## Starts at a busy stage -/

/-- A busy filter start leaves its record beside what the engine has without it. -/
theorem recordedBeside_filtBusyStart (hst : r.filtStart = true) :
    RecordedBeside ⟨.startBusyIir, r.now, .none⟩ r.filtBusyStart
      ({ r with sched := { r.sched with token0 := false } } : Regs c).filtBusyStart := by
  rw [filtBusyStart_of r hst, filtBusyStart_of_not _ rfl]
  exact ⟨rfl, rfl, mem_addFault.2 (.inr rfl)⟩

/-- `ACQ_RTT` writes the countdown, on 0 the samples and the draws, and a busy start's record. -/
theorem doAcqRtt_eq (r : Regs c) :
    r.doAcqRtt = { r with
      faults := r.acqBusyStart.faults
      acq := if r.acq.cnt = 0 then
          { r.acq with state := .idle, data := Vector.ofFn fun ch => r.sampleOf ch }
        else { r.acq with cnt := r.acq.cnt - 1 }
      draws := if r.acq.cnt = 0 then r.draws + 1 else r.draws } := by
  unfold doAcqRtt
  dsimp only
  rw [acqBusyStart_eq]
  split <;> rfl

/-- `m` is the acquisition's part of a tick as in `n`, with a busy start recorded (R374). -/
def AcqStartRecorded (r m n : Regs c) : Prop :=
  m.acq = n.acq ∧ m.draws = n.draws ∧ m.faults = addFault r.faults ⟨.startBusyAcq, r.now, .none⟩

theorem acqStartRecorded_acqCount (hst : r.acqStart = true) (load : Nat) (next : AcqState) :
    AcqStartRecorded r (r.acqCount load next)
      (({ r with inp := { r.inp with enable := false } } : Regs c).acqCount load next) := by
  rw [acqCount_eq, acqCount_eq, acqBusyStart_of r hst]
  exact ⟨rfl, rfl, rfl⟩

theorem acqStartRecorded_doAcqRtt (hst : r.acqStart = true) :
    AcqStartRecorded r r.doAcqRtt
      ({ r with inp := { r.inp with enable := false } } : Regs c).doAcqRtt := by
  rw [doAcqRtt_eq, doAcqRtt_eq, acqBusyStart_of r hst]
  exact ⟨rfl, rfl, rfl⟩

end Sys2Proof.Machine.Regs

namespace Sys2Proof.Laws

open Sys2Proof.Machine Sys2Proof.Machine.Regs

variable {c : Config} {r : Regs c}

/-- An engine micro-operation outside IDLE with a start arriving does what it does without the start,
beside the record. -/
theorem recordedBeside_act_engine {i : Instr} (hst : r.filtStart = true)
    (hi : i ∈ [Instr.loadSx, .loadWr, .procP0, .procP1, .procP2, .procP3, .shiftRd, .shiftWr]) :
    RecordedBeside ⟨.startBusyIir, r.now, .none⟩ (act i r)
      (act i { r with sched := { r.sched with token0 := false } }) := by
  have hbusy := recordedBeside_filtBusyStart hst
  simp only [List.mem_cons, List.not_mem_nil, or_false] at hi
  rcases hi with rfl | rfl | rfl | rfl | rfl | rfl | rfl | rfl
  · exact recordedBeside_walk (recordedBeside_ite (recordedBeside_raise hbusy _ _)
      (recordedBeside_update hbusy fun q => { q with sx := _ })) _ _
  · exact recordedBeside_walk (recordedBeside_stWrite hbusy _ _) _ _
  · exact recordedBeside_walk (recordedBeside_calcP0 (recordedBeside_fetch hbusy 0)) _ _
  · exact recordedBeside_walk (recordedBeside_calcP1 (recordedBeside_fetch hbusy 1)) _ _
  · exact recordedBeside_walk (recordedBeside_calcP2 (recordedBeside_fetch hbusy 2)) _ _
  · exact recordedBeside_walk (recordedBeside_calcP3 (recordedBeside_fetchLast hbusy)) _ _
  · exact recordedBeside_walk (recordedBeside_loadSd hbusy _) _ _
  · exact recordedBeside_walk (recordedBeside_stWrite hbusy _ _) _ _

/-- An acquisition micro-operation outside IDLE with a start arriving does what it does without the
start, and records it. -/
theorem acqStartRecorded_act {i : Instr} (hst : r.acqStart = true)
    (hi : i ∈ [Instr.acqCnvh, .acqConv, .acqRead, .acqRtt]) :
    AcqStartRecorded r (act i r) (act i { r with inp := { r.inp with enable := false } }) := by
  simp only [List.mem_cons, List.not_mem_nil, or_false] at hi
  rcases hi with rfl | rfl | rfl | rfl
  · exact acqStartRecorded_acqCount hst _ _
  · exact acqStartRecorded_acqCount hst _ _
  · exact acqStartRecorded_acqCount hst _ _
  · exact acqStartRecorded_doAcqRtt hst

end Sys2Proof.Laws

namespace Sys2Proof.Proofs

open Sys2Proof.Machine Sys2Proof.Machine.Regs Sys2Proof.Laws

/-- Settles O19, stage by stage. -/
theorem busyStageRecordsAndIgnoresAStart : Obligations.BusyStageRecordsAndIgnoresAStart := by
  intro c r
  refine ⟨fun i hi hst => ⟨_, _, exec_eq i _, exec_eq i _, acqStartRecorded_act hst hi⟩,
    fun i hi hst => ⟨_, _, exec_eq i _, exec_eq i _, recordedBeside_act_engine hst hi⟩,
    fun hst => ⟨_, _, exec_of_act (doOutBusy_eq _), exec_of_act (doOutBusy_eq _), rfl, if_pos hst⟩⟩

end Sys2Proof.Proofs
end

section
/-! PROOFS. Engine ticks with a read that returns nothing (60_exceptions.md rules R366, R375, R377):
`LOAD_SX` of invalid samples, and reads of words no write has defined. The register the read feeds stays,
and the rest of the tick takes place. -/

namespace Sys2Proof.Machine.Regs

variable {c : Config} {r n : Regs c} {f : FaultRec}

/-! ## Samples that are not valid -/

theorem doLoadSx_of_reading {i : Fin c.nCh} (hst : r.filtStart = false) (hrd : r.reading = true)
    (hk : r.filt.k = 2 * i.val) :
    r.doLoadSx = { r with
      faults := addFault r.faults ⟨.adcDataInvalid, r.now, .chan i.val⟩
      filt := { r.filt with k := 2 * i.val + 1 } } := by
  obtain rfl : r.walkChan = i := r.walkChan_of (p := 0) i (by decide) hk
  simp only [doLoadSx, filtBusyStart_of_not _ hst, hrd, if_true, walkLoad, walk_even _ hk]
  rfl

/-! ## State words that are not defined -/

/-- A state-port read of an undefined word is its record. -/
theorem loadSd_of_none {a : Nat} (h : r.stRead a = none) :
    r.loadSd n a = n.raise .uninitRead (.mem .sm a) := by
  rw [loadSd, h]

variable {ch : Fin c.nCh} {a : Nat}

theorem doProcP0_of_none (hk : r.filt.k = 4 * (ch.val + 1))
    (ha : a = r.filt.lat[ch].profile.toNat * 2 ^ c.C + ch.val) (hy1 : r.stRead a = none) :
    ∃ fs cq, r.doProcP0 = { r with
      faults := addFault fs ⟨.uninitRead, r.now, .mem .sm a⟩
      filt := { r.filt with k := r.filt.k + 1, cq := cq, acc := 0 } } := by
  obtain ⟨fs, cq, e, -⟩ := r.fetchBusy_keeps 0
  obtain ⟨hcalc, -⟩ := r.calculates_of (p := 0) ch (by decide) hk
  rw [← r.calcY1_of (p := 0) ch (by decide) hk] at ha
  subst ha
  refine ⟨fs, cq, ?_⟩
  rw [doProcP0, walkProcess_of_phase (s := ch.val + 1) (p := 0) _ (by decide) hk, e]
  simp only [calcP0, hcalc, loadSd_of_none hy1, if_true]
  rfl

theorem doProcP1_of_none (hk : r.filt.k = 4 * (ch.val + 1) + 1)
    (ha : a = 2 ^ c.P * 2 ^ c.C + (cfgSel c (r.fld .cfg)).toNat) (hx0 : r.stRead a = none) :
    ∃ fs cq, r.doProcP1 = { r with
      faults := addFault fs ⟨.uninitRead, r.now, .mem .sm a⟩
      filt := { r.filt with
        k := r.filt.k + 1, cq := cq, yo := r.filt.sd
        acc := mac c r.filt.acc 0 r.filt.sd (r.fld .a1) } } := by
  obtain ⟨fs, cq, e, -⟩ := r.fetchBusy_keeps 1
  obtain ⟨hcalc, -⟩ := r.calculates_of ch (by decide) hk
  rw [← smX0_calcSel] at ha
  subst ha
  refine ⟨fs, cq, ?_⟩
  rw [doProcP1, walkProcess_of_phase _ (by decide) hk, e]
  simp only [calcP1, hcalc, loadSd_of_none hx0, if_true]
  rfl

theorem doProcP2_of_none (hk : r.filt.k = 4 * (ch.val + 1) + 2)
    (ha : a = (2 ^ c.P + 1) * 2 ^ c.C + (cfgSel c (r.fld .cfg)).toNat) (hx1 : r.stRead a = none) :
    ∃ fs cq, r.doProcP2 = { r with
      faults := addFault fs ⟨.uninitRead, r.now, .mem .sm a⟩
      filt := { r.filt with
        k := r.filt.k + 1, cq := cq
        acc := mac c r.filt.acc (widenOffset c (r.fld .offset)) r.filt.sd (r.fld .b0) } } := by
  obtain ⟨fs, cq, e, -⟩ := r.fetchBusy_keeps 2
  obtain ⟨hcalc, -⟩ := r.calculates_of ch (by decide) hk
  rw [← smX1_calcSel] at ha
  subst ha
  refine ⟨fs, cq, ?_⟩
  rw [doProcP2, walkProcess_of_phase _ (by decide) hk, e]
  simp only [calcP2, hcalc, loadSd_of_none hx1, if_true]
  rfl

theorem doShiftRd_of_none {i : Fin c.nCh} (hk : r.filt.k = 2 * i.val)
    (ha : a = 2 ^ c.P * 2 ^ c.C + i.val) (hx0 : r.stRead a = none) :
    ∃ fs, r.doShiftRd = { r with
      faults := addFault fs ⟨.uninitRead, r.now, .mem .sm a⟩
      filt := { r.filt with k := 2 * i.val + 1 } } := by
  obtain ⟨fs, e, -⟩ := r.filtBusyStart_keeps
  rw [← smX0_eq i.isLt] at ha
  subst ha
  refine ⟨fs, ?_⟩
  rw [doShiftRd, r.walkChan_of (p := 0) i (by decide) hk, walkShift, walk_even _ hk, e,
    loadSd_of_none hx0]
  rfl

/-! ## Coefficient words that are not defined -/

/-- `n` has the coefficient words of `r` and the record `f`. -/
def WordsKept (f : FaultRec) (r n : Regs c) : Prop :=
  n.filt.cq = r.filt.cq ∧ n.filt.cx = r.filt.cx ∧ f ∈ n.faults

/-- A fetch of an undefined word loads nothing, and its record is there (R206). -/
theorem wordsKept_fetch {s : Fin c.nCh} {p : Nat} {word : Fin 4} (hp : p < 4)
    (hk : r.filt.k = 4 * s.val + p)
    (ha : a = s.val * 2 ^ (c.P + 2) + r.filt.lat[s].profile.toNat * 4 + word.val)
    (hw : r.coefRead a = none) :
    WordsKept ⟨.uninitRead, r.now, .mem .cm a⟩ r (r.fetch r.filtBusyStart word) := by
  obtain ⟨fs, e, -⟩ := r.filtBusyStart_keeps
  rw [← r.fetchAddr_of s hp word.isLt hk] at ha
  subst ha
  simp only [fetch, (r.fetches_of s.isLt hp hk).1, hw, if_true, e]
  exact ⟨rfl, rfl, mem_addFault.2 (.inr rfl)⟩

theorem wordsKept_fetchLast {s : Fin c.nCh} {p : Nat} (hp : p < 4) (hk : r.filt.k = 4 * s.val + p)
    (ha : a = s.val * 2 ^ (c.P + 2) + r.filt.lat[s].profile.toNat * 4 + 3)
    (hw : r.coefRead a = none) :
    WordsKept ⟨.uninitRead, r.now, .mem .cm a⟩ r (r.fetchLast r.filtBusyStart) := by
  obtain ⟨fs, e, -⟩ := r.filtBusyStart_keeps
  rw [← r.fetchAddr_of s hp (by decide) hk] at ha
  subst ha
  simp only [fetchLast, (r.fetches_of s.isLt hp hk).1, hw, if_true, e]
  exact ⟨rfl, rfl, mem_addFault.2 (.inr rfl)⟩

theorem wordsKept_calcP0 (h : WordsKept f r n) : WordsKept f r (r.calcP0 n) := by
  obtain ⟨fs, sd, acc, e, hfs, -⟩ := r.calcP0_keeps n
  obtain ⟨hcq, hcx, hrec⟩ := h
  rw [e]
  exact ⟨hcq, hcx, hfs f hrec⟩

theorem wordsKept_calcP1 (h : WordsKept f r n) : WordsKept f r (r.calcP1 n) := by
  obtain ⟨fs, sd, yo, acc, e, hfs, -⟩ := r.calcP1_keeps n
  obtain ⟨hcq, hcx, hrec⟩ := h
  rw [e]
  exact ⟨hcq, hcx, hfs f hrec⟩

theorem wordsKept_calcP2 (h : WordsKept f r n) : WordsKept f r (r.calcP2 n) := by
  obtain ⟨fs, sd, acc, e, hfs, -⟩ := r.calcP2_keeps n
  obtain ⟨hcq, hcx, hrec⟩ := h
  rw [e]
  exact ⟨hcq, hcx, hfs f hrec⟩

theorem wordsKept_calcP3 (h : WordsKept f r n) : WordsKept f r (r.calcP3 n) := by
  obtain ⟨hcq, hcx, hrec⟩ := h
  obtain ⟨hcq', hcx'⟩ := calcP3_words (r := r) n
  exact ⟨hcq'.trans hcq, hcx'.trans hcx, (calcP3_faults r n).symm ▸ hrec⟩

/-- In a slot that fetches, the walk keeps the words and counts, phase 3 included: only slot `N_ch` ends
PROCESS. -/
theorem wordsKept_walkProcess {s : Fin c.nCh} {p : Nat} (hp : p < 4) (hk : r.filt.k = 4 * s.val + p)
    (h : WordsKept f r n) :
    (r.walkProcess n).filt.cq = r.filt.cq ∧ (r.walkProcess n).filt.cx = r.filt.cx ∧
      (r.walkProcess n).filt.k = r.filt.k + 1 ∧ f ∈ (r.walkProcess n).faults := by
  have hlast : r.filt.k ≠ 4 * c.nCh + 3 := by have := s.isLt; omega
  obtain ⟨hcq, hcx, hrec⟩ := h
  rw [walkProcess, walk_count r n hlast]
  exact ⟨hcq, hcx, rfl, hrec⟩

end Sys2Proof.Machine.Regs

namespace Sys2Proof.Proofs

open Sys2Proof.Machine Sys2Proof.Machine.Regs Sys2Proof.Laws

/-- Settles O22. -/
theorem loadSxRefusesInvalidSamples : Obligations.LoadSxRefusesInvalidSamples :=
  fun _ _ _ hst hrd hk => exec_of_act (doLoadSx_of_reading hst hrd hk)

/-- Settles O34: the four state reads, then the fetches of words 0 to 2 and of word 3. -/
theorem engineReadOfUndefinedWordIsRecorded : Obligations.EngineReadOfUndefinedWordIsRecorded := by
  intro c r
  refine ⟨fun ch a hk ha hy1 => ?_, fun ch a hk ha hx0 => ?_, fun ch a hk ha hx1 => ?_,
    fun i a hk ha hx0 => ?_, fun s p a hk ha hw => ?_, fun s a hk ha hw => ?_⟩
  · obtain ⟨fs, cq, e⟩ := doProcP0_of_none hk ha hy1
    exact ⟨_, exec_of_act e, rfl, rfl, rfl, mem_addFault.2 (.inr rfl)⟩
  · obtain ⟨fs, cq, e⟩ := doProcP1_of_none hk ha hx0
    exact ⟨_, exec_of_act e, rfl, rfl, rfl, rfl, mem_addFault.2 (.inr rfl)⟩
  · obtain ⟨fs, cq, e⟩ := doProcP2_of_none hk ha hx1
    exact ⟨_, exec_of_act e, rfl, rfl, rfl, mem_addFault.2 (.inr rfl)⟩
  · obtain ⟨fs, e⟩ := doShiftRd_of_none hk ha hx0
    exact ⟨_, exec_of_act e, rfl, congrArg (· + 1) hk.symm, mem_addFault.2 (.inr rfl)⟩
  · match p, hk, ha with
    | 0, hk, ha =>
      have hfetch := wordsKept_fetch (word := 0) (by decide) hk ha hw
      exact ⟨_, exec_eq _ r, wordsKept_walkProcess (by decide) hk (wordsKept_calcP0 hfetch)⟩
    | 1, hk, ha =>
      have hfetch := wordsKept_fetch (word := 1) (by decide) hk ha hw
      exact ⟨_, exec_eq _ r, wordsKept_walkProcess (by decide) hk (wordsKept_calcP1 hfetch)⟩
    | 2, hk, ha =>
      have hfetch := wordsKept_fetch (word := 2) (by decide) hk ha hw
      exact ⟨_, exec_eq _ r, wordsKept_walkProcess (by decide) hk (wordsKept_calcP2 hfetch)⟩
  · obtain ⟨hcq, hcx, hcount, hrec⟩ := wordsKept_walkProcess (by decide) hk
      (wordsKept_calcP3 (wordsKept_fetchLast (by decide) hk ha hw))
    exact ⟨_, exec_eq _ r, hcx, hcq, hcount, hrec⟩

end Sys2Proof.Proofs
end

section
/-! PROOFS. Host operations that are recorded and refused (60_exceptions.md rules R370 to R373, R375,
R376, R379), and `set_ctrl` between sweeps (44_host_interface.md rule R335). -/

namespace Sys2Proof.Machine.Regs

variable {c : Config} {r : Regs c} {ch prof : Nat} {w : StateRef}

/-! ## Operands in range, the contract broken -/

theorem setCoeff_of_pairActive {i : Fin c.nCh} (ha : r.pairActive i prof = true) (f : CoeffField)
    (v : Int) : r.setCoeff f i.val prof v = r.raise .coeffWriteActive (.coeff i.val prof f) := by
  obtain ⟨-, hprof⟩ := pairActive_iff.1 ha
  have hin : i.val < c.nCh ∧ prof < 2 ^ c.P := ⟨i.isLt, hprof ▸ BitVec.isLt _⟩
  rw [setCoeff, dif_pos hin, if_pos ha]

theorem setState_of_engineWritesSm (hw : refOk c w = true) (he : r.engineWritesSm = true) (v : Int) :
    r.setState w v = r.raise .stateWriteConflict (.state w) := by
  simp only [setState, hw, he, if_true]

/-- The odd ticks of LOAD and SHIFT write `SM`. -/
theorem engineWritesSm_of_walk (hs : r.filt.state = .load ∨ r.filt.state = .shift)
    (hk : r.filt.k % 2 = 1) : r.engineWritesSm = true := by
  rcases hs with hs | hs <;> simp only [engineWritesSm, hs, hk, beq_self_eq_true]

/-- Phase 3 of a computed channel writes `SM` behind its open gate. -/
theorem engineWritesSm_of_gate {i : Fin c.nCh} (hs : r.filt.state = .process)
    (hk : r.filt.k = 4 * (i.val + 1) + 3) (hg : r.gate = true) : r.engineWritesSm = true := by
  simp only [engineWritesSm, hs, r.phase_of (by decide) hk, (r.calculates_of i (by decide) hk).1, hg,
    beq_self_eq_true, Bool.and_self]

theorem getState_of_busy (hw : refOk c w = true)
    (hs : r.filt.state = .load ∨ r.filt.state = .shift) :
    r.getState w = r.noHrd .stateReadBusy (.state w) := by
  have hbusy : (r.loading || r.shifting) = true := by
    simpa only [loading, shifting, Bool.or_eq_true, beq_iff_eq] using hs
  simp only [getState, hw, hbusy, if_true]

theorem fDone_iff : r.fDone = true ↔ r.filt.state = .idle := beq_iff_eq

theorem setCtrl_of_fDone {i : Fin c.nCh} (hd : r.fDone = true) (p : BitVec c.P) (enOut enIir : Bool) :
    r.setCtrl i.val p.toNat enOut enIir =
      { r with ctrl := r.ctrl.set i.val (ChanCtl.mk p enOut enIir) } := by
  rw [setCtrl, dif_pos ⟨i.isLt, p.isLt⟩, if_pos hd, BitVec.ofNat_toNat, BitVec.setWidth_eq]

theorem setCtrl_of_not_fDone {i : Fin c.nCh} (hd : r.fDone = false) (p : BitVec c.P)
    (enOut enIir : Bool) :
    r.setCtrl i.val p.toNat enOut enIir = r.raise .ctrlWriteBusy (.chan i.val) := by
  rw [setCtrl, dif_pos ⟨i.isLt, p.isLt⟩, hd, if_neg Bool.false_ne_true]

/-! ## Gets of memory no write has defined -/

theorem getCoeff_of_none {f : CoeffField} (hc : ch < c.nCh) (hp : prof < 2 ^ c.P)
    (h : r.cmHalf (coeffAddr c ch prof f) (isHigh (c.idx f)) = none) :
    r.getCoeff f ch prof = r.noHrd .uninitRead (.mem .cm (coeffAddr c ch prof f)) := by
  rw [getCoeff, if_pos ⟨hc, hp⟩, h]

theorem getState_of_none (hw : refOk c w = true) (hl : r.filt.state ≠ .load)
    (hs : r.filt.state ≠ .shift) (h : r.stRead (smAddr c w) = none) :
    r.getState w = r.noHrd .uninitRead (.mem .sm (smAddr c w)) := by
  simp [getState, hw, loading, shifting, hl, hs, h]

/-! ## Operands out of range (R376) -/

theorem not_inRange (h : (c.chanOk ch && c.profOk prof) = false) : ¬ (ch < c.nCh ∧ prof < 2 ^ c.P) := by
  simpa only [Config.chanOk, Config.profOk, Bool.and_eq_false_iff, decide_eq_false_iff_not,
    not_and_or] using h

theorem badRef_eq_raise (r : Regs c) (op : Nat) (w : StateRef) :
    ∃ n, r.badRef op w = r.raise .hostBadOp (.selector n) := by
  cases w <;> exact ⟨_, rfl⟩

end Sys2Proof.Machine.Regs

namespace Sys2Proof.Laws

open Sys2Proof.Machine Sys2Proof.Machine.Regs

variable {c : Config} {r : Regs c}

/-- A call with an operand out of range is its record, and a get puts nothing out. -/
theorem act_call_of_not_wellFormed {h : HostCall} (hbad : h.instr.wellFormed c = false) :
    ∃ n, act h.instr r = r.raise .hostBadOp (.selector n) ∨
      act h.instr r = r.noHrd .hostBadOp (.selector n) := by
  cases h with
  | setCoeff ch prof f v =>
    rw [HostCall.instr, wellFormed_setCoeff] at hbad
    rw [HostCall.instr, act_setCoeff, setCoeff, dif_neg (not_inRange hbad)]
    exact ⟨_, .inl rfl⟩
  | getCoeff ch prof f =>
    rw [HostCall.instr, wellFormed_getCoeff] at hbad
    rw [HostCall.instr, act_getCoeff, getCoeff, if_neg (not_inRange hbad)]
    exact ⟨_, .inr rfl⟩
  | setState w v =>
    rw [HostCall.instr, wellFormed_setState] at hbad
    obtain ⟨n, e⟩ := r.badRef_eq_raise 2 w
    rw [HostCall.instr, act_setState, setState, hbad, if_neg Bool.false_ne_true, e]
    exact ⟨n, .inl rfl⟩
  | getState w =>
    rw [HostCall.instr, wellFormed_getState] at hbad
    obtain ⟨n, e⟩ := r.badRef_eq_raise 3 w
    rw [HostCall.instr, act_getState, getState, hbad, if_neg Bool.false_ne_true, e]
    exact ⟨n, .inr rfl⟩
  | setCtrl ch prof o i =>
    have hact : act (HostCall.setCtrl ch prof o i).instr r = r.setCtrl ch prof o i := rfl
    rw [hact, setCtrl, dif_neg (not_inRange hbad)]
    exact ⟨_, .inl rfl⟩

theorem instr_of_named_error {n : NamedCall} (h : resolveCall n = none) :
    (HostOp.named (c := c) n).instr = .error (.call n) := by
  simp [HostOp.instr, h]

end Sys2Proof.Laws

namespace Sys2Proof.Proofs

open Sys2Proof.Machine Sys2Proof.Machine.Regs Sys2Proof.Laws

/-- Settles O42: an active pair has its operands in range. -/
theorem setCoefficientOfAnActivePairIsRecorded :
    Obligations.SetCoefficientOfAnActivePairIsRecorded := by
  intro c r f ch prof v hs hprof
  rw [exec_setCoeff, setCoeff_of_pairActive (pairActive_iff.2 ⟨hs, hprof⟩)]
  rfl

/-- Settles O46: each of the three micro-operations that store to `SM` is a conflict. -/
theorem setStateConflictIsRecorded : Obligations.SetStateConflictIsRecorded := by
  intro c r w v hw hwrites
  have he : r.engineWritesSm = true := by
    rcases hwrites with ⟨hs, hk⟩ | ⟨hs, ch, hk, hopen⟩
    · exact engineWritesSm_of_walk hs hk
    · exact engineWritesSm_of_gate hs hk ((r.gate_of ch (by decide) hk).2 hopen)
  rw [exec_setState, setState_of_engineWritesSm hw he]
  rfl

/-- Settles O48: the contract is checked before the memory is read. -/
theorem getStateWhileBusyIsRecorded : Obligations.GetStateWhileBusyIsRecorded := by
  intro c r w hw hs
  rw [exec_getState, getState_of_busy hw hs]
  rfl

/-- Settles O50, between sweeps and in a sweep. -/
theorem setCtrlWritesOnlyBetweenSweeps : Obligations.SetCtrlWritesOnlyBetweenSweeps := by
  intro c r ch prof enOut enIir
  refine ⟨fun hs => exec_of_act ?_, fun hs => exec_of_act ?_⟩
  · exact setCtrl_of_fDone (fDone_iff.2 hs) prof enOut enIir
  · exact setCtrl_of_not_fDone (Bool.eq_false_iff.2 (mt fDone_iff.1 hs)) prof enOut enIir

/-- Settles O51, for the halves of `CM` and the words of `SM`. -/
theorem hostGetOfUndefinedMemoryIsRecorded : Obligations.HostGetOfUndefinedMemoryIsRecorded := by
  intro c r ch prof hp
  refine ⟨fun f hnone => ?_, fun w hw hl hs hnone => ?_⟩
  · rw [exec_getCoeff, getCoeff_of_none ch.isLt hp hnone]
    rfl
  · rw [exec_getState, getState_of_none hw hl hs hnone]
    rfl

/-- Settles O52: a call by number is its record, and a call by an unknown name stands for no
instruction. -/
theorem operandOutOfRangeIsRecorded : Obligations.OperandOutOfRangeIsRecorded := by
  refine ⟨fun c r h hbad => ?_, fun c r inp rest n hv hf hname => ?_⟩
  · obtain ⟨n, e | e⟩ := act_call_of_not_wellFormed (r := r) hbad
    · exact ⟨n, _, exec_of_act e, .inl rfl⟩
    · exact ⟨n, _, exec_of_act e, .inr rfl⟩
  · have hres : resolveCall n = none := by
      cases n with
      | setCoeff | getCoeff => exact Option.map_eq_none_iff.2 (fieldOfName_eq_none.2 hname)
      | setState | getState => exact Option.map_eq_none_iff.2 (refOfKind_eq_none.2 hname)
    have tick : ∀ op, step ⟨c, { r with script := .tick { inp with op := op } :: rest }⟩ =
        .next ⟨c, tickAct ((r.present inp rest).withOp op)⟩ :=
      fun op => step_tick hv hf (nextEvent_of_cons rfl)
    obtain ⟨hhost, hrest⟩ := tickAct_of_refused (instr_of_named_error hres) (r.present inp rest)
    refine ⟨_, _, tick _, tick _, mem_faults_tickAct_of_hostAct ?_, ?_, hrest⟩
    · rw [hhost]; exact mem_addFault.2 (.inr rfl)
    · rw [tickAct_outs, hhost]; rfl

end Sys2Proof.Proofs
end

section
/-! PROOFS. The reset and the power-up (70_reset_and_hazards.md rules R400, R402; 10_state.md
R54). -/

namespace Sys2Proof.Machine

variable {c : Config}

/-! ## The registers of R54 -/

/-- R54: every entry of the delay line `DL` is 1. -/
theorem OutRegs.atReset_dl_getLsbD {j : Nat} (h : j ≤ c.updDelay) :
    (OutRegs.atReset c).dl.getLsbD j = true := by
  have hj : j < c.updDelay + 1 := Nat.lt_succ_of_le h
  simp [OutRegs.atReset, hj]

theorem FiltRegs.atReset_lat_getElem (i : Fin c.nCh) :
    (FiltRegs.atReset c).lat[i] = ChanCtl.off c :=
  Vector.getElem_replicate i.isLt

theorem FiltRegs.atReset_dly_getElem (i : Fin c.nCh) : (FiltRegs.atReset c).dly[i] = 0 :=
  Vector.getElem_replicate i.isLt

namespace Regs

variable {r : Regs c}

theorem applyReset_ctrl_getElem (i : Fin c.nCh) : r.applyReset.ctrl[i] = ChanCtl.off c :=
  Vector.getElem_replicate i.isLt

/-! ## Reads of memories that list nothing (R51, R402) -/

theorem stRead_of_sm_nil (h : r.sm = []) (a : Nat) : r.stRead a = Mem.unlisted c.S c.memInit := by
  rw [stRead, h, Mem.read, Mem.find_nil]

theorem cmHalf_of_cm_nil (h : r.cm = []) (a : Nat) (b : Bool) :
    r.cmHalf a b = Mem.unlisted c.K c.memInit := by
  rw [cmHalf, h, Mem.read, Mem.find_nil]

/-- With `MEM_INIT = unspecified` an empty memory defines no word. -/
theorem reads_of_unspecified (hi : c.memInit = .unspecified) (hsm : r.sm = []) (hcm : r.cm = [])
    (a : Nat) : r.stRead a = none ∧ r.coefRead a = none := by
  have half (b : Bool) : r.cmHalf a b = none := by rw [cmHalf_of_cm_nil hcm, hi, Mem.unlisted]
  exact ⟨by rw [stRead_of_sm_nil hsm, hi, Mem.unlisted], (coefRead_eq_none r).2 (.inl (half true))⟩

/-- With `MEM_INIT = zero` an empty memory reads 0 everywhere; a `CM` word is two zero halves. -/
theorem reads_of_zero (hi : c.memInit = .zero) (hsm : r.sm = []) (hcm : r.cm = []) (a : Nat) :
    r.stRead a = some 0 ∧ r.coefRead a = some 0 := by
  have half (b : Bool) : r.cmHalf a b = some 0 := by rw [cmHalf_of_cm_nil hcm, hi, Mem.unlisted]
  exact ⟨by rw [stRead_of_sm_nil hsm, hi, Mem.unlisted],
    (coefRead_eq_some r).2 ⟨0, 0, half true, half false, BitVec.zero_append_zero.symm⟩⟩

end Regs

end Sys2Proof.Machine

namespace Sys2Proof.Proofs

open Sys2Proof.Machine Sys2Proof.Machine.Regs Sys2Proof.Laws

/-- Settles O13: the step is `applyReset`, halted or not. -/
theorem resetKeepsTheMemories : Obligations.ResetKeepsTheMemories := by
  intro c r rest hv hs
  refine ⟨_, step_reset hv (nextEvent_of_cons hs), rfl, rfl, rfl, rfl, fun ch => ⟨?ctrl, ?lat, ?dly⟩,
    rfl, rfl, rfl, rfl, rfl, rfl, ?dl, rfl, rfl⟩
  case ctrl => exact applyReset_ctrl_getElem ch
  case lat => exact FiltRegs.atReset_lat_getElem ch
  case dly => exact FiltRegs.atReset_dly_getElem ch
  case dl => exact fun j hj => OutRegs.atReset_dl_getLsbD hj

/-- Settles O14: the power-up is the reset with both memories emptied, and what an empty memory
reads as is `MEM_INIT`. -/
theorem powerUpMemoriesHoldMemInit : Obligations.PowerUpMemoriesHoldMemInit := by
  intro c r rest hv hs
  exact ⟨_, _, step_powerUp hv (nextEvent_of_cons hs), step_reset hv (nextEvent_of_cons rfl), rfl,
    fun hi => reads_of_unspecified hi rfl rfl, fun hi => reads_of_zero hi rfl rfl⟩

end Sys2Proof.Proofs
end
